-- ==== Sys2Proof/Word.lean ====
section
/-! DEFINITION. The bit vectors of the block: bytes, bus addresses, and the two operation encodings of
30_encoding.md (format T, 25 bits, R90; format H, 3 bits, R91). -/

namespace Sys2Proof

/-- A byte, unsigned, 0 to 255 (R9). -/
abbrev Byte := BitVec 8

/-- A system-bus address, 0x0000 to 0xFFFF (R9). -/
abbrev Addr := BitVec 16

/-- A transaction word: W in bit 24, A in bits 23:8, D in bits 7:0 (R90). -/
abbrev TWord := BitVec 25

/-- A host-operation code (R91). -/
abbrev HCode := BitVec 3

/-- A bank count or a size in bytes, an offset in an image: never a word the bus carries. -/
abbrev Offset := Nat

/-- `lo <= a <= hi`, the form in which 30_encoding.md writes its address columns. -/
def Addr.within (lo hi : Nat) (a : Addr) : Bool := lo ≤ a.toNat && a.toNat ≤ hi

end Sys2Proof
end

