-- ==== Sys2Proof/Config.lean ====
section
/-! DEFINITION. What an implementation fixes (00_scope.md R7) and the one free value.
The parameters are fields of a record that POWER_ON takes (Machine/State.lean), so nothing here fixes them;
this file names the kinds of parameter, the derived constants, and what the spec leaves without a value. -/

namespace Sys2Proof

/-- The five controllers (R1, R3). -/
inductive Variant where
  | rom | mbc1 | mbc2 | mbc3 | mbc5
  deriving DecidableEq, Repr

/-- What a latch sequence does to an already latched clock (R7, R263). The spec fixes `toggle`. -/
inductive LatchPolicy where
  | toggle | relatch
  deriving DecidableEq, Repr

/-- The colour-mode override (R354). -/
inductive ColourOverride where
  | automatic | forceDmg | forceCgb
  deriving DecidableEq, Repr

namespace Config

/-- Seconds in a day (R7). -/
def day : Nat := 86400

/-- The period of the day counter in seconds, 512 days (R7). -/
def period : Nat := 44236800

/-- Bytes of the clock block (R7). -/
def clockBlockSize : Nat := 44

/-- Bytes of a ROM bank (R7). -/
def romBankSize : Nat := 0x4000

/-- Bytes of a RAM bank (R7). -/
def ramBankSize : Nat := 0x2000

/-- FREE VALUE (log 6). What the store holds after the n-th failed flush: absent or any finite byte sequence
("a model draws any value for FILE", R307, U3, D24). No body: nothing can be proved of it. -/
opaque failedFlushStore : Nat → Option (List Byte)

end Config

end Sys2Proof
end

