-- ==== Sys2Proof/Syntax.lean ====
section
/-! DEFINITION. The operations of the block: one constructor per row of spec/opcode_table.json (30_encoding.md
R91, R94 to R99). A transaction carries its address `a` and, for a write, its data byte `d` as they stand (R92);
a host operation's arguments are not bit-encoded (R91) and reach it through the state (log 4). -/

namespace Sys2Proof

/-- An operation of the block. -/
inductive Instr where
  -- 40_front_decoder.md, every variant (R94)
  | ff50Rd                              -- FF50.RD, R129
  | ff50Wr (d : Byte)                   -- FF50.WR, R128
  | bootRd (a : Addr)                   -- BOOT.RD, R126
  | bootcRdA (a : Addr)                 -- BOOTC.RD.a, R127, 0x0200 to 0x03FF
  | bootcRdB (a : Addr)                 -- BOOTC.RD.b, R127, 0x0400 to 0x07FF
  | bootcRdC (a : Addr)                 -- BOOTC.RD.c, R127, 0x0800 to 0x08FF
  -- 41_rom_plain.md (R95)
  | romRd (a : Addr)                    -- ROM.RD, R141
  | romWr (a : Addr) (d : Byte)         -- ROM.WR, R142
  | romRamRd (a : Addr)                 -- ROM.RAM.RD, R143
  | romRamWr (a : Addr) (d : Byte)      -- ROM.RAM.WR, R144
  -- 42_mbc1.md (R96)
  | m1Rom0Rd (a : Addr)                 -- M1.ROM0.RD, R156
  | m1RomxRd (a : Addr)                 -- M1.ROMX.RD, R157
  | m1RamgWr (a : Addr) (d : Byte)      -- M1.RAMG.WR, R151
  | m1Bank1Wr (a : Addr) (d : Byte)     -- M1.BANK1.WR, R152
  | m1Bank2Wr (a : Addr) (d : Byte)     -- M1.BANK2.WR, R153
  | m1ModeWr (a : Addr) (d : Byte)      -- M1.MODE.WR, R154
  | m1RamRd (a : Addr)                  -- M1.RAM.RD, R158
  | m1RamWr (a : Addr) (d : Byte)       -- M1.RAM.WR, R159
  -- 43_mbc2.md (R97)
  | m2Rom0Rd (a : Addr)                 -- M2.ROM0.RD, R174
  | m2RomxRd (a : Addr)                 -- M2.ROMX.RD, R175
  | m2RamgWr (a : Addr) (d : Byte)      -- M2.RAMG.WR, R171
  | m2RombWr (a : Addr) (d : Byte)      -- M2.ROMB.WR, R172
  | m2NopWr (a : Addr) (d : Byte)       -- M2.NOP.WR, R173
  | m2RamRd (a : Addr)                  -- M2.RAM.RD, R176
  | m2RamWr (a : Addr) (d : Byte)       -- M2.RAM.WR, R177
  -- 44_mbc3.md (R98)
  | m3Rom0Rd (a : Addr)                 -- M3.ROM0.RD, R195
  | m3RomxRd (a : Addr)                 -- M3.ROMX.RD, R196
  | m3RamgWr (a : Addr) (d : Byte)      -- M3.RAMG.WR, R191
  | m3RombWr (a : Addr) (d : Byte)      -- M3.ROMB.WR, R192
  | m3SelWr (a : Addr) (d : Byte)       -- M3.SEL.WR, R193
  | m3LatchWr (a : Addr) (d : Byte)     -- M3.LATCH.WR, R194
  | m3RamRd (a : Addr)                  -- M3.RAM.RD, R198
  | m3RamWr (a : Addr) (d : Byte)       -- M3.RAM.WR, R199
  | m3NoneRd (a : Addr)                 -- M3.NONE.RD, R200
  | m3NoneWr (a : Addr) (d : Byte)      -- M3.NONE.WR, R201
  | m3RtcsRd (a : Addr)                 -- M3.RTCS.RD, R202
  | m3RtcmRd (a : Addr)                 -- M3.RTCM.RD, R203
  | m3RtchRd (a : Addr)                 -- M3.RTCH.RD, R204
  | m3RtcdlRd (a : Addr)                -- M3.RTCDL.RD, R205
  | m3RtcdhRd (a : Addr)                -- M3.RTCDH.RD, R206
  | m3RtcsWr (a : Addr) (d : Byte)      -- M3.RTCS.WR, R207
  | m3RtcmWr (a : Addr) (d : Byte)      -- M3.RTCM.WR, R208
  | m3RtchWr (a : Addr) (d : Byte)      -- M3.RTCH.WR, R209
  | m3RtcdlWr (a : Addr) (d : Byte)     -- M3.RTCDL.WR, R210
  | m3RtcdhWr (a : Addr) (d : Byte)     -- M3.RTCDH.WR, R211
  -- 45_mbc5.md (R99)
  | m5Rom0Rd (a : Addr)                 -- M5.ROM0.RD, R236
  | m5RomxRd (a : Addr)                 -- M5.ROMX.RD, R237
  | m5RamgWr (a : Addr) (d : Byte)      -- M5.RAMG.WR, R231
  | m5Romb0Wr (a : Addr) (d : Byte)     -- M5.ROMB0.WR, R232
  | m5Romb1Wr (a : Addr) (d : Byte)     -- M5.ROMB1.WR, R233
  | m5RambWr (a : Addr) (d : Byte)      -- M5.RAMB.WR, R234
  | m5NopWr (a : Addr) (d : Byte)       -- M5.NOP.WR, R235
  | m5RamRd (a : Addr)                  -- M5.RAM.RD, R238
  | m5RamWr (a : Addr) (d : Byte)       -- M5.RAM.WR, R239
  -- host operations (R91)
  | powerOn                             -- POWER_ON, R400
  | flush                               -- FLUSH, R305
  | snapshot                            -- SNAPSHOT, R322
  | restore                             -- RESTORE, R325
  | powerOff                            -- POWER_OFF, R405
  deriving DecidableEq, Repr

end Sys2Proof
end

