-- ==== Sys2Proof/WellFormed.lean ====
section
/-! DEFINITION. Which operations are operations of the table: the address lies in the row's window
(30_encoding.md R94 to R99, the column "address"). A row's conditions on state and parameters (column "cond") are
not syntax: see `Instr.inForce` in Decode.lean. -/

namespace Sys2Proof

/-- The operation's address lies in its row's window (R94 to R99). -/
def Instr.wf : Instr → Bool
  | .ff50Rd => true
  | .ff50Wr _ => true
  | .bootRd a => a.within 0x0000 0x00FF
  | .bootcRdA a => a.within 0x0200 0x03FF
  | .bootcRdB a => a.within 0x0400 0x07FF
  | .bootcRdC a => a.within 0x0800 0x08FF
  | .romRd a => a.within 0x0000 0x7FFF
  | .romWr a _ => a.within 0x0000 0x7FFF
  | .romRamRd a => a.within 0xA000 0xBFFF
  | .romRamWr a _ => a.within 0xA000 0xBFFF
  | .m1Rom0Rd a => a.within 0x0000 0x3FFF
  | .m1RomxRd a => a.within 0x4000 0x7FFF
  | .m1RamgWr a _ => a.within 0x0000 0x1FFF
  | .m1Bank1Wr a _ => a.within 0x2000 0x3FFF
  | .m1Bank2Wr a _ => a.within 0x4000 0x5FFF
  | .m1ModeWr a _ => a.within 0x6000 0x7FFF
  | .m1RamRd a => a.within 0xA000 0xBFFF
  | .m1RamWr a _ => a.within 0xA000 0xBFFF
  | .m2Rom0Rd a => a.within 0x0000 0x3FFF
  | .m2RomxRd a => a.within 0x4000 0x7FFF
  | .m2RamgWr a _ => a.within 0x0000 0x3FFF && !a.getLsbD 8
  | .m2RombWr a _ => a.within 0x0000 0x3FFF && a.getLsbD 8
  | .m2NopWr a _ => a.within 0x4000 0x7FFF
  | .m2RamRd a => a.within 0xA000 0xBFFF
  | .m2RamWr a _ => a.within 0xA000 0xBFFF
  | .m3Rom0Rd a => a.within 0x0000 0x3FFF
  | .m3RomxRd a => a.within 0x4000 0x7FFF
  | .m3RamgWr a _ => a.within 0x0000 0x1FFF
  | .m3RombWr a _ => a.within 0x2000 0x3FFF
  | .m3SelWr a _ => a.within 0x4000 0x5FFF
  | .m3LatchWr a _ => a.within 0x6000 0x7FFF
  | .m3RamRd a => a.within 0xA000 0xBFFF
  | .m3RamWr a _ => a.within 0xA000 0xBFFF
  | .m3NoneRd a => a.within 0xA000 0xBFFF
  | .m3NoneWr a _ => a.within 0xA000 0xBFFF
  | .m3RtcsRd a => a.within 0xA000 0xBFFF
  | .m3RtcmRd a => a.within 0xA000 0xBFFF
  | .m3RtchRd a => a.within 0xA000 0xBFFF
  | .m3RtcdlRd a => a.within 0xA000 0xBFFF
  | .m3RtcdhRd a => a.within 0xA000 0xBFFF
  | .m3RtcsWr a _ => a.within 0xA000 0xBFFF
  | .m3RtcmWr a _ => a.within 0xA000 0xBFFF
  | .m3RtchWr a _ => a.within 0xA000 0xBFFF
  | .m3RtcdlWr a _ => a.within 0xA000 0xBFFF
  | .m3RtcdhWr a _ => a.within 0xA000 0xBFFF
  | .m5Rom0Rd a => a.within 0x0000 0x3FFF
  | .m5RomxRd a => a.within 0x4000 0x7FFF
  | .m5RamgWr a _ => a.within 0x0000 0x1FFF
  | .m5Romb0Wr a _ => a.within 0x2000 0x2FFF
  | .m5Romb1Wr a _ => a.within 0x3000 0x3FFF
  | .m5RambWr a _ => a.within 0x4000 0x5FFF
  | .m5NopWr a _ => a.within 0x6000 0x7FFF
  | .m5RamRd a => a.within 0xA000 0xBFFF
  | .m5RamWr a _ => a.within 0xA000 0xBFFF
  | .powerOn => true
  | .flush => true
  | .snapshot => true
  | .restore => true
  | .powerOff => true

end Sys2Proof
end

