-- ==== Sys2Proof/Decode.lean ====
section
/-! DEFINITION. The decoder of 30_encoding.md (R93 to R101), total on all transaction words and host codes and
rejecting by name, and after it the encoder (R90, R91). -/

namespace Sys2Proof

/-- The encoded form of an operation: a transaction word or a host code (R90, R91). -/
inductive OpWord where
  | t (w : TWord)
  | h (c : HCode)
  deriving DecidableEq, Repr

/-- Why a word is no operation of the block. -/
inductive Reject where
  /-- The address is not claimed (R93 step 4, R122). -/
  | notClaimed (a : Addr)
  /-- A bus transaction while no block exists: there is no variant to decode for (log 11). -/
  | noBlock
  /-- Host codes 0b101 to 0b111 are not assigned (R91, U11). -/
  | unassignedHostCode (c : HCode)
  deriving DecidableEq, Repr

/-- What the decoder answers. -/
inductive Decoded where
  | instr (i : Instr)
  | rejected (r : Reject)
  deriving DecidableEq, Repr

/-- The parameters and state that decoding depends on (R93: "mode bits that change decoding").
`ramEnable` and `sel` are read in the MBC3 RAM window only. -/
structure DecodeCtx where
  variant : Variant
  cgb : Bool
  bootOff : Bool
  ramEnable : Bool
  sel : BitVec 4
  ramBanks : Nat
  deriving DecidableEq, Repr

/-- The context of the block after reset (log 2): the cartridge of R355, the overlay visible. -/
def DecodeCtx.reset : DecodeCtx :=
  { variant := .mbc1, cgb := false, bootOff := false, ramEnable := false, sel := 0, ramBanks := 4 }

/-! ### Fields of a transaction word (R90) -/

/-- W, bit 24: 1 = write. -/
def TWord.isWrite (w : TWord) : Bool := w.getLsbD 24

/-- A, bits 23:8. -/
def TWord.addr (w : TWord) : Addr := w.extractLsb' 8 16

/-- D, bits 7:0. -/
def TWord.data (w : TWord) : Byte := w.extractLsb' 0 8

/-- The word `{W, A, D}`. -/
def TWord.make (wr : Bool) (a : Addr) (d : Byte) : TWord := BitVec.ofBool wr ++ a ++ d

/-- The word of `RD a` (R90). -/
def rdWord (a : Addr) : TWord := TWord.make false a 0

/-- The word of `WR a, d` (R90). -/
def wrWord (a : Addr) (d : Byte) : TWord := TWord.make true a d

/-! ### The address map -/

/-- The addresses the block claims, whatever its state (R63, R121). -/
def accepts (a : Addr) : Bool := a.within 0x0000 0x7FFF || a.within 0xA000 0xBFFF || a == 0xFF50#16

/-- The first overlay window in force (R64, R126). -/
def DecodeCtx.overlay1 (c : DecodeCtx) (a : Addr) : Bool := !c.bootOff && a.within 0x0000 0x00FF

/-- The second overlay window in force (R64, R127). -/
def DecodeCtx.overlay2 (c : DecodeCtx) (a : Addr) : Bool := !c.bootOff && c.cgb && a.within 0x0200 0x08FF

/-- A read at `a` shows the boot image. -/
def DecodeCtx.overlaid (c : DecodeCtx) (a : Addr) : Bool := c.overlay1 a || c.overlay2 a

/-- What the MBC3 RAM window reaches (R197). -/
inductive Mbc3Target where
  | none | ram | seconds | minutes | hours | dayLow | dayHigh
  deriving DecidableEq, Repr

/-- The table of R197, its conditions in its order. -/
def mbc3Target (ramEnable : Bool) (sel : BitVec 4) (ramBanks : Nat) : Mbc3Target :=
  if !ramEnable then .none
  else if sel.toNat ≤ 3 then (if ramBanks = 0 then .none else .ram)
  else if sel = 0x8#4 then .seconds
  else if sel = 0x9#4 then .minutes
  else if sel = 0xA#4 then .hours
  else if sel = 0xB#4 then .dayLow
  else if sel = 0xC#4 then .dayHigh
  else .none

/-- What the MBC3 RAM window reaches in a decoding context. -/
def DecodeCtx.target (c : DecodeCtx) : Mbc3Target := mbc3Target c.ramEnable c.sel c.ramBanks

/-! ### The controllers' maps (R95 to R99) -/

/-- R95, reads. -/
def decodeRomRd (a : Addr) : Decoded :=
  if a.within 0x0000 0x7FFF then .instr (.romRd a)
  else if a.within 0xA000 0xBFFF then .instr (.romRamRd a)
  else .rejected (.notClaimed a)

/-- R95, writes. -/
def decodeRomWr (a : Addr) (d : Byte) : Decoded :=
  if a.within 0x0000 0x7FFF then .instr (.romWr a d)
  else if a.within 0xA000 0xBFFF then .instr (.romRamWr a d)
  else .rejected (.notClaimed a)

/-- R96, reads. -/
def decodeMbc1Rd (a : Addr) : Decoded :=
  if a.within 0x0000 0x3FFF then .instr (.m1Rom0Rd a)
  else if a.within 0x4000 0x7FFF then .instr (.m1RomxRd a)
  else if a.within 0xA000 0xBFFF then .instr (.m1RamRd a)
  else .rejected (.notClaimed a)

/-- R96, writes. -/
def decodeMbc1Wr (a : Addr) (d : Byte) : Decoded :=
  if a.within 0x0000 0x1FFF then .instr (.m1RamgWr a d)
  else if a.within 0x2000 0x3FFF then .instr (.m1Bank1Wr a d)
  else if a.within 0x4000 0x5FFF then .instr (.m1Bank2Wr a d)
  else if a.within 0x6000 0x7FFF then .instr (.m1ModeWr a d)
  else if a.within 0xA000 0xBFFF then .instr (.m1RamWr a d)
  else .rejected (.notClaimed a)

/-- R97, reads. -/
def decodeMbc2Rd (a : Addr) : Decoded :=
  if a.within 0x0000 0x3FFF then .instr (.m2Rom0Rd a)
  else if a.within 0x4000 0x7FFF then .instr (.m2RomxRd a)
  else if a.within 0xA000 0xBFFF then .instr (.m2RamRd a)
  else .rejected (.notClaimed a)

/-- R97, writes: the window 0x0000 to 0x3FFF is split by address bit 8. -/
def decodeMbc2Wr (a : Addr) (d : Byte) : Decoded :=
  if a.within 0x0000 0x3FFF then (if a.getLsbD 8 then .instr (.m2RombWr a d) else .instr (.m2RamgWr a d))
  else if a.within 0x4000 0x7FFF then .instr (.m2NopWr a d)
  else if a.within 0xA000 0xBFFF then .instr (.m2RamWr a d)
  else .rejected (.notClaimed a)

/-- R98, the RAM-window reads, chosen by R197. -/
def decodeMbc3WindowRd (t : Mbc3Target) (a : Addr) : Instr :=
  match t with
  | .none => .m3NoneRd a
  | .ram => .m3RamRd a
  | .seconds => .m3RtcsRd a
  | .minutes => .m3RtcmRd a
  | .hours => .m3RtchRd a
  | .dayLow => .m3RtcdlRd a
  | .dayHigh => .m3RtcdhRd a

/-- R98, the RAM-window writes, chosen by R197. -/
def decodeMbc3WindowWr (t : Mbc3Target) (a : Addr) (d : Byte) : Instr :=
  match t with
  | .none => .m3NoneWr a d
  | .ram => .m3RamWr a d
  | .seconds => .m3RtcsWr a d
  | .minutes => .m3RtcmWr a d
  | .hours => .m3RtchWr a d
  | .dayLow => .m3RtcdlWr a d
  | .dayHigh => .m3RtcdhWr a d

/-- R98, reads. -/
def decodeMbc3Rd (t : Mbc3Target) (a : Addr) : Decoded :=
  if a.within 0x0000 0x3FFF then .instr (.m3Rom0Rd a)
  else if a.within 0x4000 0x7FFF then .instr (.m3RomxRd a)
  else if a.within 0xA000 0xBFFF then .instr (decodeMbc3WindowRd t a)
  else .rejected (.notClaimed a)

/-- R98, writes. -/
def decodeMbc3Wr (t : Mbc3Target) (a : Addr) (d : Byte) : Decoded :=
  if a.within 0x0000 0x1FFF then .instr (.m3RamgWr a d)
  else if a.within 0x2000 0x3FFF then .instr (.m3RombWr a d)
  else if a.within 0x4000 0x5FFF then .instr (.m3SelWr a d)
  else if a.within 0x6000 0x7FFF then .instr (.m3LatchWr a d)
  else if a.within 0xA000 0xBFFF then .instr (decodeMbc3WindowWr t a d)
  else .rejected (.notClaimed a)

/-- R99, reads. -/
def decodeMbc5Rd (a : Addr) : Decoded :=
  if a.within 0x0000 0x3FFF then .instr (.m5Rom0Rd a)
  else if a.within 0x4000 0x7FFF then .instr (.m5RomxRd a)
  else if a.within 0xA000 0xBFFF then .instr (.m5RamRd a)
  else .rejected (.notClaimed a)

/-- R99, writes. -/
def decodeMbc5Wr (a : Addr) (d : Byte) : Decoded :=
  if a.within 0x0000 0x1FFF then .instr (.m5RamgWr a d)
  else if a.within 0x2000 0x2FFF then .instr (.m5Romb0Wr a d)
  else if a.within 0x3000 0x3FFF then .instr (.m5Romb1Wr a d)
  else if a.within 0x4000 0x5FFF then .instr (.m5RambWr a d)
  else if a.within 0x6000 0x7FFF then .instr (.m5NopWr a d)
  else if a.within 0xA000 0xBFFF then .instr (.m5RamWr a d)
  else .rejected (.notClaimed a)

/-- The controller's map for the variant, reads (R93 step 3). -/
def decodeControllerRd (c : DecodeCtx) (a : Addr) : Decoded :=
  match c.variant with
  | .rom => decodeRomRd a
  | .mbc1 => decodeMbc1Rd a
  | .mbc2 => decodeMbc2Rd a
  | .mbc3 => decodeMbc3Rd c.target a
  | .mbc5 => decodeMbc5Rd a

/-- The controller's map for the variant, writes (R93 step 3). -/
def decodeControllerWr (c : DecodeCtx) (a : Addr) (d : Byte) : Decoded :=
  match c.variant with
  | .rom => decodeRomWr a d
  | .mbc1 => decodeMbc1Wr a d
  | .mbc2 => decodeMbc2Wr a d
  | .mbc3 => decodeMbc3Wr c.target a d
  | .mbc5 => decodeMbc5Wr a d

/-- A read transaction (R124): the disable register, the overlay, the controller. `BOOTC.RD` is three rows (R104). -/
def decodeRd (c : DecodeCtx) (a : Addr) : Decoded :=
  if a = 0xFF50#16 then .instr .ff50Rd
  else if c.overlay1 a then .instr (.bootRd a)
  else if c.overlay2 a then
    (if a.within 0x0200 0x03FF then .instr (.bootcRdA a)
     else if a.within 0x0400 0x07FF then .instr (.bootcRdB a)
     else .instr (.bootcRdC a))
  else decodeControllerRd c a

/-- A write transaction (R125): the overlay never takes one. -/
def decodeWr (c : DecodeCtx) (a : Addr) (d : Byte) : Decoded :=
  if a = 0xFF50#16 then .instr (.ff50Wr d) else decodeControllerWr c a d

/-- A transaction word (R93). `D` is not an input of a read (R90). -/
def decodeBus (c : DecodeCtx) (w : TWord) : Decoded :=
  if w.isWrite then decodeWr c w.addr w.data else decodeRd c w.addr

/-- A host code (R91). -/
def decodeHost (c : HCode) : Decoded :=
  if c = 0b000#3 then .instr .powerOn
  else if c = 0b001#3 then .instr .flush
  else if c = 0b010#3 then .instr .snapshot
  else if c = 0b011#3 then .instr .restore
  else if c = 0b100#3 then .instr .powerOff
  else .rejected (.unassignedHostCode c)

/-- The decoder: the context is that of the block, none where no block exists. -/
def decode (c : Option DecodeCtx) (o : OpWord) : Decoded :=
  match o, c with
  | .h k, _ => decodeHost k
  | .t w, some c => decodeBus c w
  | .t _, none => .rejected .noBlock

/-- The encoded operation of a table word: an 8-bit row is a host code, a longer one a transaction word; none where
bits above the format's 3 or 25 are set. -/
def opWordOfTable (nbits w : Nat) : Option OpWord :=
  if nbits ≤ 8 then (if w < 8 then some (.h (BitVec.ofNat 3 w)) else none)
  else (if w < 2 ^ 25 then some (.t (BitVec.ofNat 25 w)) else none)

/-- What the decoder reads from a table word in the block's context after reset (log 12: one word is shared by
the rows of several variants, R104, so the context decides). -/
def decodeTableWord (nbits w : Nat) : Option Instr :=
  match opWordOfTable nbits w with
  | none => none
  | some o =>
    match decode (some DecodeCtx.reset) o with
    | .instr i => some i
    | .rejected _ => none

/-! ### The encoder -/

/-- The canonical word or code of an operation (R90, R91). -/
def encode : Instr → OpWord
  | .ff50Rd => .t (rdWord 0xFF50#16)
  | .ff50Wr d => .t (wrWord 0xFF50#16 d)
  | .bootRd a => .t (rdWord a)
  | .bootcRdA a => .t (rdWord a)
  | .bootcRdB a => .t (rdWord a)
  | .bootcRdC a => .t (rdWord a)
  | .romRd a => .t (rdWord a)
  | .romWr a d => .t (wrWord a d)
  | .romRamRd a => .t (rdWord a)
  | .romRamWr a d => .t (wrWord a d)
  | .m1Rom0Rd a => .t (rdWord a)
  | .m1RomxRd a => .t (rdWord a)
  | .m1RamgWr a d => .t (wrWord a d)
  | .m1Bank1Wr a d => .t (wrWord a d)
  | .m1Bank2Wr a d => .t (wrWord a d)
  | .m1ModeWr a d => .t (wrWord a d)
  | .m1RamRd a => .t (rdWord a)
  | .m1RamWr a d => .t (wrWord a d)
  | .m2Rom0Rd a => .t (rdWord a)
  | .m2RomxRd a => .t (rdWord a)
  | .m2RamgWr a d => .t (wrWord a d)
  | .m2RombWr a d => .t (wrWord a d)
  | .m2NopWr a d => .t (wrWord a d)
  | .m2RamRd a => .t (rdWord a)
  | .m2RamWr a d => .t (wrWord a d)
  | .m3Rom0Rd a => .t (rdWord a)
  | .m3RomxRd a => .t (rdWord a)
  | .m3RamgWr a d => .t (wrWord a d)
  | .m3RombWr a d => .t (wrWord a d)
  | .m3SelWr a d => .t (wrWord a d)
  | .m3LatchWr a d => .t (wrWord a d)
  | .m3RamRd a => .t (rdWord a)
  | .m3RamWr a d => .t (wrWord a d)
  | .m3NoneRd a => .t (rdWord a)
  | .m3NoneWr a d => .t (wrWord a d)
  | .m3RtcsRd a => .t (rdWord a)
  | .m3RtcmRd a => .t (rdWord a)
  | .m3RtchRd a => .t (rdWord a)
  | .m3RtcdlRd a => .t (rdWord a)
  | .m3RtcdhRd a => .t (rdWord a)
  | .m3RtcsWr a d => .t (wrWord a d)
  | .m3RtcmWr a d => .t (wrWord a d)
  | .m3RtchWr a d => .t (wrWord a d)
  | .m3RtcdlWr a d => .t (wrWord a d)
  | .m3RtcdhWr a d => .t (wrWord a d)
  | .m5Rom0Rd a => .t (rdWord a)
  | .m5RomxRd a => .t (rdWord a)
  | .m5RamgWr a d => .t (wrWord a d)
  | .m5Romb0Wr a d => .t (wrWord a d)
  | .m5Romb1Wr a d => .t (wrWord a d)
  | .m5RambWr a d => .t (wrWord a d)
  | .m5NopWr a d => .t (wrWord a d)
  | .m5RamRd a => .t (rdWord a)
  | .m5RamWr a d => .t (wrWord a d)
  | .powerOn => .h 0b000#3
  | .flush => .h 0b001#3
  | .snapshot => .h 0b010#3
  | .restore => .h 0b011#3
  | .powerOff => .h 0b100#3

/-- The row exists for the context: the columns "variant" and "cond" of R94 to R99, and for a controller's read that
no overlay takes the address first (R93 step 2). -/
def Instr.inForce (c : DecodeCtx) : Instr → Bool
  | .ff50Rd => true
  | .ff50Wr _ => true
  | .bootRd a => c.overlay1 a
  | .bootcRdA a => c.overlay2 a
  | .bootcRdB a => c.overlay2 a
  | .bootcRdC a => c.overlay2 a
  | .romRd a => c.variant == .rom && !c.overlaid a
  | .romWr _ _ => c.variant == .rom
  | .romRamRd _ => c.variant == .rom
  | .romRamWr _ _ => c.variant == .rom
  | .m1Rom0Rd a => c.variant == .mbc1 && !c.overlaid a
  | .m1RomxRd a => c.variant == .mbc1 && !c.overlaid a
  | .m1RamgWr _ _ => c.variant == .mbc1
  | .m1Bank1Wr _ _ => c.variant == .mbc1
  | .m1Bank2Wr _ _ => c.variant == .mbc1
  | .m1ModeWr _ _ => c.variant == .mbc1
  | .m1RamRd _ => c.variant == .mbc1
  | .m1RamWr _ _ => c.variant == .mbc1
  | .m2Rom0Rd a => c.variant == .mbc2 && !c.overlaid a
  | .m2RomxRd a => c.variant == .mbc2 && !c.overlaid a
  | .m2RamgWr _ _ => c.variant == .mbc2
  | .m2RombWr _ _ => c.variant == .mbc2
  | .m2NopWr _ _ => c.variant == .mbc2
  | .m2RamRd _ => c.variant == .mbc2
  | .m2RamWr _ _ => c.variant == .mbc2
  | .m3Rom0Rd a => c.variant == .mbc3 && !c.overlaid a
  | .m3RomxRd a => c.variant == .mbc3 && !c.overlaid a
  | .m3RamgWr _ _ => c.variant == .mbc3
  | .m3RombWr _ _ => c.variant == .mbc3
  | .m3SelWr _ _ => c.variant == .mbc3
  | .m3LatchWr _ _ => c.variant == .mbc3
  | .m3RamRd _ => c.variant == .mbc3 && c.target == .ram
  | .m3RamWr _ _ => c.variant == .mbc3 && c.target == .ram
  | .m3NoneRd _ => c.variant == .mbc3 && c.target == .none
  | .m3NoneWr _ _ => c.variant == .mbc3 && c.target == .none
  | .m3RtcsRd _ => c.variant == .mbc3 && c.target == .seconds
  | .m3RtcmRd _ => c.variant == .mbc3 && c.target == .minutes
  | .m3RtchRd _ => c.variant == .mbc3 && c.target == .hours
  | .m3RtcdlRd _ => c.variant == .mbc3 && c.target == .dayLow
  | .m3RtcdhRd _ => c.variant == .mbc3 && c.target == .dayHigh
  | .m3RtcsWr _ _ => c.variant == .mbc3 && c.target == .seconds
  | .m3RtcmWr _ _ => c.variant == .mbc3 && c.target == .minutes
  | .m3RtchWr _ _ => c.variant == .mbc3 && c.target == .hours
  | .m3RtcdlWr _ _ => c.variant == .mbc3 && c.target == .dayLow
  | .m3RtcdhWr _ _ => c.variant == .mbc3 && c.target == .dayHigh
  | .m5Rom0Rd a => c.variant == .mbc5 && !c.overlaid a
  | .m5RomxRd a => c.variant == .mbc5 && !c.overlaid a
  | .m5RamgWr _ _ => c.variant == .mbc5
  | .m5Romb0Wr _ _ => c.variant == .mbc5
  | .m5Romb1Wr _ _ => c.variant == .mbc5
  | .m5RambWr _ _ => c.variant == .mbc5
  | .m5NopWr _ _ => c.variant == .mbc5
  | .m5RamRd _ => c.variant == .mbc5
  | .m5RamWr _ _ => c.variant == .mbc5
  | .powerOn => true
  | .flush => true
  | .snapshot => true
  | .restore => true
  | .powerOff => true

end Sys2Proof
end

