-- ==== Sys2Proof/Machine/State.lean ====
section
/-! DEFINITION. The state of the block (10_state.md R20 to R36) as plain data, the faults and refusals, and the
state after reset. -/

namespace Sys2Proof
namespace Machine

/-- A byte array: `size` bytes, of which `cells` lists those that are not 0x00, addresses strictly rising and below
`size` (the canonical form `Buf.wf` of Machine/Ops.lean). An unlisted byte below `size` is 0x00; an offset from
`size` on does not exist. Used for the ROM and boot images, RAM, the battery's buffers and the store. -/
structure Buf where
  size : Nat
  cells : List Host.Cell
  deriving DecidableEq, Repr

/-! ### Parameters (00_scope.md R7): a configuration record fixed by POWER_ON -/

/-- The parameters of the block (R7). -/
structure Params where
  rom : Buf
  variant : Variant
  romBanks : Nat
  ramBanks : Nat
  hasBattery : Bool
  cgb : Bool
  boot : Buf
  openBus : Byte
  ramFill : Byte
  tickHz : Nat
  latchPolicy : LatchPolicy
  deriving DecidableEq, Repr

/-- The parameters of R7 that no header gives: what the spec fixes by decision (D4, D12, D16) or leaves OPEN (D22).
The defaults are the values the spec fixes; `ramFill` has none in the spec (log 3). -/
structure Env where
  openBus : Byte := 0xFF
  ramFill : Byte := 0x00
  tickHz : Nat := 1000
  latchPolicy : LatchPolicy := .toggle
  deriving DecidableEq, Repr

/-- The configuration argument of POWER_ON: a model may "derive or take the parameters" (R400 step 1,
49_configuration.md). `header` derives them from the ROM image; `direct` takes them. -/
inductive CartConfig where
  | header (rom : Buf) (colour : ColourOverride) (dmgBoot cgbBoot : Buf) (env : Env)
  | direct (p : Params)
  deriving DecidableEq, Repr

/-! ### Controllers (10_state.md R24 to R28) and the RTC (R30) -/

/-- The registers of MBC1 (R25). -/
structure Mbc1 where
  ramEnable : Bool
  bank1 : BitVec 5
  bank2 : BitVec 2
  mode : Bool
  deriving DecidableEq, Repr

/-- The registers of MBC2 (R26). -/
structure Mbc2 where
  ramEnable : Bool
  romBank : BitVec 4
  deriving DecidableEq, Repr

/-- The registers of MBC3 (R27). -/
structure Mbc3 where
  ramEnable : Bool
  romBank : BitVec 7
  sel : BitVec 4
  latchReg : Byte
  deriving DecidableEq, Repr

/-- The registers of MBC5 (R28). -/
structure Mbc5 where
  ramEnable : Bool
  romBank : BitVec 9
  ramBank : BitVec 4
  deriving DecidableEq, Repr

/-- The real-time clock (R30). Instants are in ticks, the offset in seconds; all three are mathematical integers
(R280). -/
structure Rtc where
  clockStart : Int
  offsetSec : Int
  halt : Bool
  latchStart : Int
  haltSeconds : Byte
  haltMinutes : Byte
  haltHours : Byte
  haltDays : BitVec 9
  deriving DecidableEq, Repr

/-- The controller registers `C`, by variant, with the RTC that MBC3 owns (R20, R24 to R28, R30). -/
inductive Ctrl where
  | rom
  | mbc1 (r : Mbc1)
  | mbc2 (r : Mbc2)
  | mbc3 (r : Mbc3) (k : Rtc)
  | mbc5 (r : Mbc5)
  deriving DecidableEq, Repr

/-- The `FileBattery` (R33). -/
structure FileBattery where
  bRam : Buf
  bClock : Buf
  clockPresent : Bool
  dirty : Bool
  deriving DecidableEq, Repr

/-- The battery arbiter (R33, R290): the no-op battery has no state. -/
inductive Battery where
  | null
  | file (m : FileBattery)
  deriving DecidableEq, Repr

/-- The block: the parameters it was powered on with and its state `S` but for `FILE` (R20). -/
structure Block where
  params : Params
  bootOff : Bool
  ctrl : Ctrl
  ram : Buf
  bat : Battery
  deriving DecidableEq, Repr

/-- A snapshot value (48_snapshot.md R322). The constructors of `ctrl` and `bat` are its tags. -/
structure CartSnap where
  bootOff : Bool
  ctrl : Ctrl
  ram : Buf
  bat : Battery
  deriving DecidableEq, Repr

/-! ### Faults the spec describes (60_exceptions.md): TAKEN, as a next state that carries the report -/

/-- Which part of a snapshot is of the wrong kind (R373 "records which part"). -/
inductive SnapPart where
  | ctrl | bat
  deriving DecidableEq, Repr

/-- Which buffer of a snapshot has the wrong length (R374 "records which buffer"; log 18 where two have). -/
inductive SnapBuffer where
  | ram | bRam | bClock
  deriving DecidableEq, Repr

/-- The faults of 60_exceptions.md R371 to R378 with what each records. Fault 7, NO_ROM_ENTRY, is raised before the
block exists by software outside it (R377) and is out of scope (R6). -/
inductive SpecFault where
  | configUnsupportedRomSize (code : Byte)
  | configUnsupportedRamSize (code : Byte)
  | snapshotTypeMismatch (part : SnapPart)
  | snapshotLengthMismatch (buffer : SnapBuffer)
  | ioFailure
  | unclaimedAddress (a : Addr)
  | configUnsupportedType
  | configRomLength
  deriving DecidableEq, Repr

/-- What the last operation returned to its caller (R10 `return`, `raise`; R381). -/
inductive Result where
  /-- No operation has been taken yet. -/
  | none
  /-- The operation completed and returns nothing. -/
  | done
  /-- A read transaction delivered this byte. -/
  | byte (v : Byte)
  /-- SNAPSHOT returned this value. -/
  | snapshot (v : CartSnap)
  /-- The operation did not complete; this fault was reported. -/
  | fault (f : SpecFault)
  deriving DecidableEq, Repr

/-! ### The outside: operations waiting to be taken (log 1, log 4) -/

/-- The `FILE` argument of POWER_ON (R91): the store as it stands, or one the host supplies (R34). -/
inductive StoreArg where
  | asItStands
  | supplied (f : Option Buf)
  deriving DecidableEq, Repr

/-- The arguments of a host operation, which are not bit-encoded (R91); an operation reads those R91 gives it. -/
structure HostArgs where
  config : CartConfig
  store : StoreArg
  ioOk : Bool
  snap : CartSnap
  deriving DecidableEq, Repr

/-- An operation as an external agent issues it (R8). -/
inductive Op where
  | bus (w : TWord)
  | host (c : HCode) (args : HostArgs)
  deriving DecidableEq, Repr

/-- An operation and the value of the time input at its step (R8, R251). -/
structure Request where
  now : Nat
  op : Op
  deriving DecidableEq, Repr

/-- The state of the model: the block (none when off, R389), the store, and the model's own ports (INVENTORY.md). -/
structure State where
  block : Option Block
  file : Option Buf
  pending : List Request
  now : Nat
  args : HostArgs
  result : Result
  freeCount : Nat
  deriving DecidableEq, Repr

/-! ### Stops -/

/-- The byte arrays that an access can leave. -/
inductive Space where
  | rom | ram | boot
  deriving DecidableEq, Repr

/-- Why the machine stops. -/
inductive Fault where
  /-- An access at an offset its array does not have. Raised by every read or write of ROM, RAM or the boot image whose
  array is shorter than the parameters say. Safe: no state that meets `State.wf` reaches it. -/
  | outsideImage (space : Space) (offset : Offset)
  deriving DecidableEq, Repr

/-- Why the machine gives an operation no meaning. -/
inductive Refusal where
  /-- An instruction without a meaning, by its mnemonic. Raised by no arm. Safe. -/
  | notModelled (mnemonic : String)
  /-- An operation other than POWER_ON and POWER_OFF while no block exists: the spec gives it no effect there (log 11).
  Raised by the decoder for bus transactions and by every meaning that needs the block. Safe. -/
  | noBlock
  /-- An operation whose row does not exist for the variant or state (R94 to R99, R101). Raised by a meaning called
  outside its row's condition; the decoder never yields such a row. Safe. -/
  | rowNotInForce
  /-- A configuration record outside the types and ranges of R7 (log 13). Raised by POWER_ON. Safe. -/
  | illFormedConfig
  /-- A host code that is not assigned (R91, U11). Raised by the decoder. Safe. -/
  | unassignedHostCode (c : HCode)
  deriving DecidableEq, Repr

/-- The outcome of an operation. -/
abbrev Out := Host.Outcome State Fault Refusal

/-! ### Reset -/

/-- The ROM image of the reset configuration: eight banks, and the three header bytes of R355 (log 2). -/
def Buf.resetRom : Buf := { size := 0x20000, cells := [(0x0147, 0x03), (0x0148, 0x02), (0x0149, 0x03)] }

/-- The boot images of the reset configuration (R356; contents not in the spec, log 3). -/
def Buf.resetDmgBoot : Buf := { size := 0x100, cells := [] }

/-- See `Buf.resetDmgBoot`. -/
def Buf.resetCgbBoot : Buf := { size := 0x800, cells := [] }

/-- The configuration argument that gives the reset configuration: the end-to-end cartridge of R355 (log 2). -/
def CartConfig.reset : CartConfig := .header Buf.resetRom .automatic Buf.resetDmgBoot Buf.resetCgbBoot {}

/-- The arguments at the host port after reset (log 4). -/
def HostArgs.reset : HostArgs :=
  { config := CartConfig.reset, store := .asItStands, ioOk := true,
    snap := { bootOff := false, ctrl := .rom, ram := { size := 0, cells := [] }, bat := .null } }

/-- The parameters that R355 derives for the reset configuration. -/
def Params.reset : Params :=
  { rom := Buf.resetRom, variant := .mbc1, romBanks := 8, ramBanks := 4, hasBattery := true, cgb := false,
    boot := Buf.resetDmgBoot, openBus := 0xFF, ramFill := 0x00, tickHz := 1000, latchPolicy := .toggle }

/-- The block after POWER_ON with the reset configuration and no save image (R36). -/
def Block.reset : Block :=
  { params := Params.reset, bootOff := false,
    ctrl := .mbc1 { ramEnable := false, bank1 := 1, bank2 := 0, mode := false },
    ram := { size := 0x8000, cells := [] },
    bat := .file { bRam := { size := 0x8000, cells := [] }, bClock := { size := 44, cells := [] },
                   clockPresent := false, dirty := false } }

/-- The machine right after reset: the state of R36 for the configuration of log 2, nothing waiting. -/
def State.reset : State :=
  { block := some Block.reset, file := none, pending := [], now := 1000, args := HostArgs.reset,
    result := .none, freeCount := 0 }

end Machine
end Sys2Proof
end

