-- ==== Sys2Proof/Machine/Ops.lean ====
section
/-! DEFINITION. The named operations over byte arrays and over the state: reading and writing one byte, how an
operation answers, how a fault is taken (60_exceptions.md R381), and how the next operation is fetched. -/

namespace Sys2Proof
namespace Machine

/-! ### Byte arrays -/

/-- The byte listed for address `i`, 0x00 where none is. -/
def cellsGet : List Host.Cell → Nat → Byte
  | [], _ => 0
  | (k, x) :: t, i => if k = i then x else cellsGet t i

/-- `cells` with the byte at `i` made `v`, kept in canonical form. -/
def cellsSet : List Host.Cell → Nat → Byte → List Host.Cell
  | [], i, v => if v = 0 then [] else [(i, v)]
  | (k, x) :: t, i, v =>
    if i < k then (if v = 0 then (k, x) :: t else (i, v) :: (k, x) :: t)
    else if i = k then (if v = 0 then t else (i, v) :: t)
    else (k, x) :: cellsSet t i v

/-- Addresses strictly rising, from `lo` on and below `n`, and no cell holding 0x00. -/
def cellsWf (n : Nat) : Nat → List Host.Cell → Bool
  | _, [] => true
  | lo, (k, x) :: t => decide (lo ≤ k) && decide (k < n) && x != 0 && cellsWf n (k + 1) t

/-- The canonical form of a byte array. -/
def Buf.wf (b : Buf) : Bool := cellsWf b.size 0 b.cells

/-- The byte at `i`, 0x00 beyond the array: for an offset already known to lie in it. -/
def Buf.at (b : Buf) (i : Nat) : Byte := cellsGet b.cells i

/-- `X[i]` read: none where the array has no such offset (R10). -/
def Buf.get (b : Buf) (i : Nat) : Option Byte := if i < b.size then some (b.at i) else none

/-- `X[i] <- v`: none where the array has no such offset (R10). -/
def Buf.set (b : Buf) (i : Nat) (v : Byte) : Option Buf :=
  if i < b.size then some { b with cells := cellsSet b.cells i v } else none

/-- `n` bytes of 0x00. -/
def Buf.zeros (n : Nat) : Buf := { size := n, cells := [] }

/-- `n` bytes of `v` (`RAM[i] <- RAM_FILL` for every i, R400 step 4). -/
def Buf.replicate (n : Nat) (v : Byte) : Buf :=
  { size := n, cells := if v = 0 then [] else (List.range n).map fun i => (i, v) }

/-- The first `n` bytes, or all where there are fewer. -/
def Buf.take (b : Buf) (n : Nat) : Buf :=
  { size := min n b.size, cells := b.cells.filter fun c => decide (c.1 < n) }

/-- The cells from address `n` on, renumbered from 0. -/
def cellsDrop (n : Nat) : List Host.Cell → List Host.Cell
  | [] => []
  | (k, x) :: t => if n ≤ k then (k - n, x) :: cellsDrop n t else cellsDrop n t

/-- The bytes from `n` on. -/
def Buf.drop (b : Buf) (n : Nat) : Buf := { size := b.size - n, cells := cellsDrop n b.cells }

/-- `a ++ b`: the bytes of `a`, then those of `b` (R305, R310). -/
def Buf.append (a b : Buf) : Buf :=
  { size := a.size + b.size, cells := a.cells ++ b.cells.map fun c => (a.size + c.1, c.2) }

/-- The cells of a list of bytes, the first at address `i`. -/
def cellsOf : Nat → List Byte → List Host.Cell
  | _, [] => []
  | i, x :: t => if x = 0 then cellsOf (i + 1) t else (i, x) :: cellsOf (i + 1) t

/-- The array holding a list of bytes. -/
def Buf.ofBytes (l : List Byte) : Buf := { size := l.length, cells := cellsOf 0 l }

/-! ### How an operation answers -/

/-- `ignore`, and every operation that returns nothing and changes no state (R10). -/
def State.complete (s : State) : Out := .next { s with result := .done }

/-- `return v` (R10): a read changes no state of the block (R68). -/
def State.deliver (s : State) (v : Byte) : Out := .next { s with result := .byte v }

/-- The operation completes with the block in state `b`. -/
def State.commit (s : State) (b : Block) : Out := .next { s with block := some b, result := .done }

/-- TAKING A FAULT (R10 `raise`, R381): nothing is saved, nothing is vectored, no state of the block changes, the
condition is reported to the caller. There is no return from one (R382): the next operation finds the state as it was.
FLUSH changes `FILE` first (R307) and POWER_ON leaves no block (R381): their meanings hand in that state. -/
def State.raise (s : State) (f : SpecFault) : Out := .next { s with result := .fault f }

/-! ### The block and its controller -/

/-- Run `k` on the block; refused where none exists (log 11). -/
def State.onBlock (s : State) (k : Block → Out) : Out :=
  match s.block with
  | some b => k b
  | none => .refused .noBlock

/-- Run `k` on a block of variant ROM (R95). -/
def State.onRom (s : State) (k : Block → Out) : Out :=
  s.onBlock fun b => match b.ctrl with
    | .rom => k b
    | _ => .refused .rowNotInForce

/-- Run `k` on a block of variant MBC1 and its registers (R96). -/
def State.onMbc1 (s : State) (k : Block → Mbc1 → Out) : Out :=
  s.onBlock fun b => match b.ctrl with
    | .mbc1 r => k b r
    | _ => .refused .rowNotInForce

/-- Run `k` on a block of variant MBC2 and its registers (R97). -/
def State.onMbc2 (s : State) (k : Block → Mbc2 → Out) : Out :=
  s.onBlock fun b => match b.ctrl with
    | .mbc2 r => k b r
    | _ => .refused .rowNotInForce

/-- Run `k` on a block of variant MBC3, its registers and its RTC (R98). -/
def State.onMbc3 (s : State) (k : Block → Mbc3 → Rtc → Out) : Out :=
  s.onBlock fun b => match b.ctrl with
    | .mbc3 r c => k b r c
    | _ => .refused .rowNotInForce

/-- Run `k` on a block of variant MBC5 and its registers (R99). -/
def State.onMbc5 (s : State) (k : Block → Mbc5 → Out) : Out :=
  s.onBlock fun b => match b.ctrl with
    | .mbc5 r => k b r
    | _ => .refused .rowNotInForce

/-- The variant whose registers these are: the snapshot's tag (R322). -/
def Ctrl.variant : Ctrl → Variant
  | .rom => .rom
  | .mbc1 _ => .mbc1
  | .mbc2 _ => .mbc2
  | .mbc3 _ _ => .mbc3
  | .mbc5 _ => .mbc5

/-- What decoding depends on, read off the block (R93). -/
def Block.ctx (b : Block) : DecodeCtx :=
  { variant := b.params.variant, cgb := b.params.cgb, bootOff := b.bootOff,
    ramEnable := match b.ctrl with
      | .rom => false
      | .mbc1 r => r.ramEnable
      | .mbc2 r => r.ramEnable
      | .mbc3 r _ => r.ramEnable
      | .mbc5 r => r.ramEnable,
    sel := match b.ctrl with
      | .mbc3 r _ => r.sel
      | _ => 0,
    ramBanks := b.params.ramBanks }

/-! ### Fetching the next operation (log 1) -/

/-- The encoded form of an issued operation. -/
def Op.word : Op → OpWord
  | .bus w => .t w
  | .host c _ => .h c

/-- The state in which the oldest waiting operation `r` is taken: it leaves the queue, and its time input (R251) and
host arguments (R91) stand at the ports. -/
def State.accept (s : State) (r : Request) (rest : List Request) : State :=
  { s with
    pending := rest
    now := r.now
    args := match r.op with
      | .host _ a => a
      | .bus _ => s.args }

/-- What an issued operation is, for the block as it stands (R93). -/
def State.decoded (s : State) (o : Op) : Decoded := decode (s.block.map Block.ctx) o.word

/-- What becomes of a word that is no operation: an unclaimed address is the fault UNCLAIMED_ADDRESS, taken (R376,
R100); the others have no effect in the spec and are refused. -/
def State.reject (s : State) : Reject → Out
  | .notClaimed a => s.raise (.unclaimedAddress a)
  | .noBlock => .refused .noBlock
  | .unassignedHostCode c => .refused (.unassignedHostCode c)

/-- The issued operation of a table word, arguments as they stand at the port. -/
def State.opOfTable (s : State) (nbits w : Nat) : Option Op :=
  (opWordOfTable nbits w).map fun o => match o with
    | .t w => .bus w
    | .h c => .host c s.args

end Machine
end Sys2Proof
end

