-- ==== Sys2Proof/Machine/Operands.lean ====
section
/-! DEFINITION. Every operand form of the block (30_encoding.md R92): the slices of A and D, bank translation
(20_memory.md R70), and one read or write through it. -/

namespace Sys2Proof
namespace Machine

/-! ### Window offsets: slices of A -/

/-- `A[13:0]`, the offset in a ROM window. -/
def romSlice (a : Addr) : Nat := (a.extractLsb' 0 14).toNat

/-- `A[12:0]`, the offset in the RAM window. -/
def ramSlice (a : Addr) : Nat := (a.extractLsb' 0 13).toNat

/-- `A[8:0]`, the cell in the MBC2 RAM window. -/
def mbc2Slice (a : Addr) : Nat := (a.extractLsb' 0 9).toNat

/-- `A[7:0]`, the offset in the first boot window (R126). -/
def bootSlice (a : Addr) : Nat := (a.extractLsb' 0 8).toNat

/-- `A - 0x0100`, the image offset in the second boot window (R127). -/
def bootHighOffset (a : Addr) : Nat := (a - 0x0100#16).toNat

/-! ### Slices of D -/

/-- `D[3:0]`. -/
def low4 (d : Byte) : BitVec 4 := d.extractLsb' 0 4

/-- A bank field in which 0 is written as 1 (R152, R172, R192): the test is on the field itself. -/
def zeroToOne {n : Nat} (v : BitVec n) : BitVec n := if v = 0#n then 1#n else v

/-! ### Sizes and bank translation (R7, R70) -/

/-- `ROM_SIZE`. -/
def Params.romSize (p : Params) : Nat := p.romBanks * Config.romBankSize

/-- `RAM_SIZE`. -/
def Params.ramSize (p : Params) : Nat := p.ramBanks * Config.ramBankSize

/-- `romOffset(bank, a)` (R70). -/
def Params.romOffset (p : Params) (bank : Nat) (a : Addr) : Nat :=
  (bank % p.romBanks) * Config.romBankSize + romSlice a

/-- `ramOffset(bank, a)`, only when `RAM_BANKS > 0` (R70). -/
def Params.ramOffset (p : Params) (bank : Nat) (a : Addr) : Nat :=
  (bank % p.ramBanks) * Config.ramBankSize + ramSlice a

/-! ### Reads and writes -/

/-- `return X[i]`; an offset the array does not have faults. -/
def State.deliverFrom (s : State) (sp : Space) (x : Buf) (i : Nat) : Out :=
  match x.get i with
  | some v => s.deliver v
  | none => .fault (.outsideImage sp i)

/-- `return ROM[i]`. -/
def State.readRom (s : State) (b : Block) (i : Nat) : Out := s.deliverFrom .rom b.params.rom i

/-- `return RAM[i]`. -/
def State.readRam (s : State) (b : Block) (i : Nat) : Out := s.deliverFrom .ram b.ram i

/-- `return BOOT[i]`. -/
def State.readBoot (s : State) (b : Block) (i : Nat) : Out := s.deliverFrom .boot b.params.boot i

/-- `RAM[i] <- v`; an offset the array does not have faults. -/
def State.writeRam (s : State) (b : Block) (i : Nat) (v : Byte) : Out :=
  match b.ram.set i v with
  | some ram => s.commit { b with ram := ram }
  | none => .fault (.outsideImage .ram i)

/-- A read of the RAM window, `OPEN_BUS` where the window shows nothing (R71). -/
def State.readWindow (s : State) (b : Block) (shown : Bool) (i : Nat) : Out :=
  if shown then s.readRam b i else s.deliver b.params.openBus

/-- A write of the RAM window, ignored where the window shows nothing (R71). -/
def State.writeWindow (s : State) (b : Block) (shown : Bool) (i : Nat) (v : Byte) : Out :=
  if shown then s.writeRam b i v else s.complete

/-- The RAM window shows RAM: the flag is set and there is RAM (R71). -/
def Params.ramShown (p : Params) (ramEnable : Bool) : Bool := ramEnable && p.ramBanks != 0

end Machine
end Sys2Proof
end

