-- ==== Sys2Proof/Machine/Front.lean ====
section
/-! DEFINITION. The cartridge front decoder (40_front_decoder.md): the disable register and the boot overlay. -/

namespace Sys2Proof
namespace Machine

/-- FF50.RD (R129): always 0xFF, the literal and not OPEN_BUS. -/
def execFf50Rd (s : State) : Out := s.onBlock fun _ => s.deliver 0xFF#8

/-- FF50.WR (R128): any value disables the overlay. -/
def execFf50Wr (_ : Byte) (s : State) : Out := s.onBlock fun b => s.commit { b with bootOff := true }

/-- BOOT.RD (R126). With `bootOff = 1` the row does not exist. -/
def execBootRd (a : Addr) (s : State) : Out :=
  s.onBlock fun b => if b.bootOff then .refused .rowNotInForce else s.readBoot b (bootSlice a)

/-- The second overlay window (R127). With `bootOff = 1` or `CGB = 0` the row does not exist. -/
def State.readBootHigh (s : State) (a : Addr) : Out :=
  s.onBlock fun b =>
    if b.bootOff || !b.params.cgb then .refused .rowNotInForce else s.readBoot b (bootHighOffset a)

/-- BOOTC.RD.a (R127). -/
def execBootcRdA (a : Addr) (s : State) : Out := s.readBootHigh a

/-- BOOTC.RD.b (R127). -/
def execBootcRdB (a : Addr) (s : State) : Out := s.readBootHigh a

/-- BOOTC.RD.c (R127). -/
def execBootcRdC (a : Addr) (s : State) : Out := s.readBootHigh a

end Machine
end Sys2Proof
end

