-- ==== Sys2Proof/Machine/Flags.lean ====
section
/-! DEFINITION. The computation of every flag of 10_state.md R32 that is computed and not copied: the RAM-enable key,
the RTC's derived carry, the latched flag, and the day-high register image that carries three of them. -/

namespace Sys2Proof
namespace Machine

/-- The RAM-enable flag a write sets: `D[3:0] = 0xA` (R151, R171, R191, R231). -/
def enableKey (d : Byte) : Bool := low4 d == 0xA#4

/-- The clock is latched: `latchStart != 0` (R32, R250). -/
def Rtc.latched (k : Rtc) : Bool := k.latchStart != 0

/-- The day-counter carry of a clock time: `T >= PERIOD` (R258). -/
def carryOf (t : Int) : Bool := decide ((Config.period : Int) ≤ t)

/-- The day-high image: carry in bit 7, halt in bit 6, bits 5:1 zero, day bit 8 in bit 0 (R259). -/
def dayHighImage (carry halt day8 : Bool) : Byte :=
  BitVec.ofBool carry ++ BitVec.ofBool halt ++ 0#5 ++ BitVec.ofBool day8

end Machine
end Sys2Proof
end

