-- ==== Sys2Proof/Machine/Rtc.lean ====
section
/-! DEFINITION. The RTC counter and latch-read engine (46_rtc.md): functions and procedures over the RTC state.
`hz` is `TICK_HZ`, `now` the time input. Division and remainder on `Int` by a positive number are the floor division
and the non-negative remainder of R9. -/

namespace Sys2Proof
namespace Machine

/-! ### Time (R252, R253) -/

/-- The basis of a read: the latch instant while latched, else `now` (R252). -/
def Rtc.basis (k : Rtc) (now : Nat) : Int := if k.latched then k.latchStart else now

/-- `Tat(b)`: seconds at the instant `b`, elapsed time clamped to zero (R253, U1). -/
def Rtc.timeAt (hz : Nat) (k : Rtc) (b : Int) : Int := max 0 (b - k.clockStart) / (hz : Int) + k.offsetSec

/-- `T(now)`: what reads see (R253). -/
def Rtc.readTime (hz : Nat) (now : Nat) (k : Rtc) : Int := k.timeAt hz (k.basis now)

/-- `Tw(now)`: the wall-clock value, ignoring the latch (R253). -/
def Rtc.wallTime (hz : Nat) (now : Nat) (k : Rtc) : Int := k.timeAt hz now

/-! ### Registers of a clock time -/

/-- `t mod 60`. -/
def secondsOf (t : Int) : Byte := BitVec.ofInt 8 (t % 60)

/-- `(t div 60) mod 60`. -/
def minutesOf (t : Int) : Byte := BitVec.ofInt 8 (t / 60 % 60)

/-- `(t div 3600) mod 24`. -/
def hoursOf (t : Int) : Byte := BitVec.ofInt 8 (t / 3600 % 24)

/-- `(t mod PERIOD) div DAY`, 0 to 511. -/
def daysOf (t : Int) : BitVec 9 := BitVec.ofInt 9 (t % (Config.period : Int) / (Config.day : Int))

/-! ### The displayed registers (R254 to R259) -/

/-- R254. -/
def Rtc.getSeconds (hz now : Nat) (k : Rtc) : Byte := if k.halt then k.haltSeconds else secondsOf (k.readTime hz now)

/-- R255. -/
def Rtc.getMinutes (hz now : Nat) (k : Rtc) : Byte := if k.halt then k.haltMinutes else minutesOf (k.readTime hz now)

/-- R256. -/
def Rtc.getHours (hz now : Nat) (k : Rtc) : Byte := if k.halt then k.haltHours else hoursOf (k.readTime hz now)

/-- R257. -/
def Rtc.getDayCounter (hz now : Nat) (k : Rtc) : BitVec 9 := if k.halt then k.haltDays else daysOf (k.readTime hz now)

/-- R258: derived in both states, through the latch. -/
def Rtc.isCounterOverflow (hz now : Nat) (k : Rtc) : Bool := carryOf (k.readTime hz now)

/-- R259, day-low. -/
def Rtc.getDL (hz now : Nat) (k : Rtc) : Byte := (k.getDayCounter hz now).extractLsb' 0 8

/-- R259, day-high. -/
def Rtc.getDH (hz now : Nat) (k : Rtc) : Byte :=
  dayHighImage (k.isCounterOverflow hz now) k.halt ((k.getDayCounter hz now).getLsbD 8)

/-! ### Latch (R261 to R263) -/

/-- `latch(now)` (R261). -/
def Rtc.latch (now : Nat) (k : Rtc) : Rtc := { k with latchStart := now }

/-- `unlatch()` (R262). -/
def Rtc.unlatch (k : Rtc) : Rtc := { k with latchStart := 0 }

/-- `latchSequence(now)`, by `LATCH_POLICY` (R263). -/
def Rtc.latchSequence (pol : LatchPolicy) (now : Nat) (k : Rtc) : Rtc :=
  match pol with
  | .toggle => if k.latched then k.unlatch else k.latch now
  | .relatch => k.latch now

/-! ### Halt (R264 to R266) -/

/-- Running to halted: the shadows take the wall-clock registers (R264). -/
def Rtc.enterHalt (hz now : Nat) (k : Rtc) : Rtc :=
  { k with
    haltSeconds := secondsOf (k.wallTime hz now)
    haltMinutes := minutesOf (k.wallTime hz now)
    haltHours := hoursOf (k.wallTime hz now)
    haltDays := daysOf (k.wallTime hz now)
    halt := true }

/-- The seconds that the shadows stand for (R265). -/
def Rtc.shadowSeconds (k : Rtc) : Int :=
  k.haltSeconds.toNat + 60 * k.haltMinutes.toNat + 3600 * k.haltHours.toNat + 86400 * k.haltDays.toNat

/-- Halted to running: the offset is recomputed from the shadows and the clock starts at `now` (R265). -/
def Rtc.resume (now : Nat) (k : Rtc) : Rtc :=
  { k with offsetSec := k.shadowSeconds, clockStart := now, halt := false }

/-- `setHalt(h, now)`: only a transition has an effect (R264 to R266). -/
def Rtc.setHalt (hz now : Nat) (h : Bool) (k : Rtc) : Rtc :=
  if h = k.halt then k else if h then k.enterHalt hz now else k.resume now

/-! ### Setters (R267 to R270): no effect unless halted -/

/-- R267. -/
def Rtc.setSeconds (v : Byte) (k : Rtc) : Rtc := if k.halt then { k with haltSeconds := v } else k

/-- R268. -/
def Rtc.setMinutes (v : Byte) (k : Rtc) : Rtc := if k.halt then { k with haltMinutes := v } else k

/-- R269. -/
def Rtc.setHours (v : Byte) (k : Rtc) : Rtc := if k.halt then { k with haltHours := v } else k

/-- R270. -/
def Rtc.setDayCounter (v : BitVec 9) (k : Rtc) : Rtc := if k.halt then { k with haltDays := v } else k

/-! ### Clearing the overflow (R271) -/

/-- `clearCounterOverflow(now)`, the closed form of R271. -/
def Rtc.clearCounterOverflow (hz now : Nat) (k : Rtc) : Rtc :=
  if k.isCounterOverflow hz now then
    { k with offsetSec := k.offsetSec - k.readTime hz now / (Config.period : Int) * (Config.period : Int) }
  else k

/-! ### The day-low and day-high writes (R210, R211) -/

/-- R210: the low 8 bits of the day counter. -/
def Rtc.writeDayLow (d : Byte) (k : Rtc) : Rtc :=
  k.setDayCounter (k.haltDays.extractLsb' 8 1 ++ d)

/-- R211 effect 1: day bit 8, under the halt state before the write. -/
def Rtc.writeDayBit8 (d : Byte) (k : Rtc) : Rtc :=
  k.setDayCounter (d.extractLsb' 0 1 ++ k.haltDays.extractLsb' 0 8)

/-- R211: the three effects in their order. -/
def Rtc.writeDayHigh (hz now : Nat) (d : Byte) (k : Rtc) : Rtc :=
  if d.getLsbD 7 then (k.writeDayBit8 d).setHalt hz now (d.getLsbD 6)
  else ((k.writeDayBit8 d).setHalt hz now (d.getLsbD 6)).clearCounterOverflow hz now

/-! ### The time vector and the clock block (R272 to R275) -/

/-- Elements 0 to 4: the registers at the wall clock, as if not latched (R272). -/
def Rtc.registerImage (hz now : Nat) (k : Rtc) : List (BitVec 32) :=
  [(k.unlatch.getSeconds hz now).zeroExtend 32, (k.unlatch.getMinutes hz now).zeroExtend 32,
   (k.unlatch.getHours hz now).zeroExtend 32, (k.unlatch.getDL hz now).zeroExtend 32,
   (k.unlatch.getDH hz now).zeroExtend 32]

/-- `serialize(now)`: the registers, their copies, the UNIX time in whole seconds (R272; beyond 32 bits: log 10). -/
def Rtc.serialize (hz now : Nat) (k : Rtc) : List (BitVec 32) :=
  k.registerImage hz now ++ k.registerImage hz now ++ [BitVec.ofNat 32 (now / hz)]

/-- The four bytes of an element, least significant first (R273). -/
def elementBytes (v : BitVec 32) : List Byte :=
  [v.extractLsb' 0 8, v.extractLsb' 8 8, v.extractLsb' 16 8, v.extractLsb' 24 8]

/-- The clock block of a vector (R273). -/
def clockBlock (v : List (BitVec 32)) : Buf := Buf.ofBytes (v.flatMap elementBytes)

/-- Element `i` of the vector in a clock block (R274). -/
def blockElement (blk : Buf) (i : Nat) : BitVec 32 :=
  blk.at (4 * i + 3) ++ blk.at (4 * i + 2) ++ blk.at (4 * i + 1) ++ blk.at (4 * i)

/-- The vector in a clock block (R274). -/
def blockVector (blk : Buf) : List (BitVec 32) := (List.range 11).map (blockElement blk)

/-- `deserialize(v)`: the whole RTC state from a vector (R275); elements 5 to 9 are not read. -/
def Rtc.deserialize (hz : Nat) (v : List (BitVec 32)) : Rtc :=
  { offsetSec :=
      ((v.getD 0 0).toNat + 60 * (v.getD 1 0).toNat + 3600 * (v.getD 2 0).toNat
        + 86400 * ((v.getD 3 0).toNat + 256 * ((v.getD 4 0).getLsbD 0).toNat)
        + (if (v.getD 4 0).getLsbD 7 then Config.period else 0) : Nat)
    clockStart := ((v.getD 10 0).toNat * hz : Nat)
    halt := (v.getD 4 0).getLsbD 6
    haltSeconds := (v.getD 0 0).extractLsb' 0 8
    haltMinutes := (v.getD 1 0).extractLsb' 0 8
    haltHours := (v.getD 2 0).extractLsb' 0 8
    haltDays := (v.getD 4 0).extractLsb' 0 1 ++ (v.getD 3 0).extractLsb' 0 8
    latchStart := 0 }

/-- The RTC at power-on with no clock block loaded (R30, R400 step 5). -/
def Rtc.powerOn (now : Nat) : Rtc :=
  { clockStart := now, offsetSec := 0, halt := false, latchStart := 0,
    haltSeconds := 0, haltMinutes := 0, haltHours := 0, haltDays := 0 }

end Machine
end Sys2Proof
end

