-- ==== Sys2Proof/Machine/Battery.lean ====
section
/-! DEFINITION. The battery-backed RAM arbiter (47_battery.md): LOAD, the save trigger and SAVE, FLUSH. -/

namespace Sys2Proof
namespace Machine

/-! ### SAVE (R299, R300) -/

/-- `SAVE`: the mirror takes all of RAM; an MBC3 supplies the clock block (R291, R300). -/
def FileBattery.save (m : FileBattery) (b : Block) (now : Nat) : FileBattery :=
  match b.ctrl with
  | .mbc3 _ k =>
    { bRam := b.ram, bClock := clockBlock (k.serialize b.params.tickHz now), clockPresent := true, dirty := true }
  | _ => { m with bRam := b.ram, dirty := true }

/-- The save trigger: the no-op battery does nothing (R290, R299). -/
def Block.saveTrigger (b : Block) (now : Nat) : Block :=
  match b.bat with
  | .null => b
  | .file m => { b with bat := .file (m.save b now) }

/-- The end of a RAM-enable write: a save if it leaves the flag clear (R299). -/
def Block.afterEnableWrite (b : Block) (ramEnable : Bool) (now : Nat) : Block :=
  if ramEnable then b else b.saveTrigger now

/-! ### LOAD (R292 to R296) -/

/-- `RAM[i] <- FILE[i]` for every i below both sizes (R292 to R294). -/
def loadRam (file ram : Buf) : Buf := (file.take ram.size).append (ram.drop (min file.size ram.size))

/-- The clock block of a save image: the 44 bytes after the RAM image, where they exist (R296). -/
def fileClock (file : Buf) (ramSize : Nat) : Option Buf :=
  if ramSize + Config.clockBlockSize ≤ file.size then some ((file.drop ramSize).take Config.clockBlockSize) else none

/-- The controller after the clock part of the load: an MBC3 takes the clock block if there is one (R292, R296). -/
def Ctrl.loadClock (c : Ctrl) (hz : Nat) (blk : Option Buf) : Ctrl :=
  match c, blk with
  | .mbc3 r _, some blk => .mbc3 r (Rtc.deserialize hz (blockVector blk))
  | c, _ => c

/-- `bClock` after the load: the block taken, else zeros (R33, R292, R296). -/
def Ctrl.loadedClock (c : Ctrl) (blk : Option Buf) : Buf :=
  match c, blk with
  | .mbc3 _ _, some blk => blk
  | _, _ => Buf.zeros Config.clockBlockSize

/-- `LOAD` with `HAS_BATTERY = 1` (R292, R295). -/
def Block.load (b : Block) (file : Option Buf) : Block :=
  match file with
  | none =>
    { b with bat := .file { bRam := b.ram, bClock := Buf.zeros Config.clockBlockSize, clockPresent := false,
                            dirty := false } }
  | some f =>
    { b with
      ram := loadRam f b.ram
      ctrl := b.ctrl.loadClock b.params.tickHz (fileClock f b.params.ramSize)
      bat := .file { bRam := loadRam f b.ram, bClock := b.ctrl.loadedClock (fileClock f b.params.ramSize),
                     clockPresent := false, dirty := false } }

/-! ### FLUSH (R305 to R307) -/

/-- The save image: the mirror, then the clock block if the pending save carries one (R305, R310). -/
def FileBattery.image (m : FileBattery) : Buf := if m.clockPresent then m.bRam.append m.bClock else m.bRam

/-- The battery after a successful flush (R305). -/
def FileBattery.flushed (m : FileBattery) : FileBattery := { m with dirty := false, clockPresent := false }

/-- The store after a failed flush: a free value (R307, U3; log 6). -/
def failedStore (n : Nat) : Option Buf := (Config.failedFlushStore n).map Buf.ofBytes

/-- `FLUSH(ioOk)` (R305, R306, R307). -/
def execFlush (s : State) : Out :=
  s.onBlock fun b =>
    match b.bat with
    | .null => s.complete
    | .file m =>
      if !m.dirty then s.complete
      else if s.args.ioOk then
        .next { s with block := some { b with bat := .file m.flushed }, file := some m.image, result := .done }
      else State.raise { s with file := failedStore s.freeCount, freeCount := s.freeCount + 1 } .ioFailure

end Machine
end Sys2Proof
end

