-- ==== Sys2Proof/Machine/Mbc1.lean ====
section
/-! DEFINITION. The MBC1 variant (42_mbc1.md). -/

namespace Sys2Proof
namespace Machine

/-! ### Effective banks (R155) -/

/-- The bank shown at 0x0000 to 0x3FFF (R155). -/
def Mbc1.romBankLow (r : Mbc1) : Nat := if r.mode then r.bank2.toNat <<< 5 else 0

/-- The bank shown at 0x4000 to 0x7FFF (R155). -/
def Mbc1.romBankHigh (r : Mbc1) : Nat := r.bank2.toNat <<< 5 ||| r.bank1.toNat

/-- The bank shown at 0xA000 to 0xBFFF (R155). -/
def Mbc1.ramBankSel (r : Mbc1) : Nat := if r.mode then r.bank2.toNat else 0

/-! ### Operations -/

/-- M1.RAMG.WR (R151). -/
def execM1RamgWr (_ : Addr) (d : Byte) (s : State) : Out :=
  s.onMbc1 fun b r =>
    s.commit (Block.afterEnableWrite { b with ctrl := .mbc1 { r with ramEnable := enableKey d } } (enableKey d) s.now)

/-- M1.BANK1.WR (R152). -/
def execM1Bank1Wr (_ : Addr) (d : Byte) (s : State) : Out :=
  s.onMbc1 fun b r => s.commit { b with ctrl := .mbc1 { r with bank1 := zeroToOne (d.extractLsb' 0 5) } }

/-- M1.BANK2.WR (R153). -/
def execM1Bank2Wr (_ : Addr) (d : Byte) (s : State) : Out :=
  s.onMbc1 fun b r => s.commit { b with ctrl := .mbc1 { r with bank2 := d.extractLsb' 0 2 } }

/-- M1.MODE.WR (R154). -/
def execM1ModeWr (_ : Addr) (d : Byte) (s : State) : Out :=
  s.onMbc1 fun b r => s.commit { b with ctrl := .mbc1 { r with mode := d.getLsbD 0 } }

/-- M1.ROM0.RD (R156). -/
def execM1Rom0Rd (a : Addr) (s : State) : Out :=
  s.onMbc1 fun b r => s.readRom b (b.params.romOffset r.romBankLow a)

/-- M1.ROMX.RD (R157). -/
def execM1RomxRd (a : Addr) (s : State) : Out :=
  s.onMbc1 fun b r => s.readRom b (b.params.romOffset r.romBankHigh a)

/-- M1.RAM.RD (R158). -/
def execM1RamRd (a : Addr) (s : State) : Out :=
  s.onMbc1 fun b r => s.readWindow b (b.params.ramShown r.ramEnable) (b.params.ramOffset r.ramBankSel a)

/-- M1.RAM.WR (R159): neither `dirty` nor the mirror is touched. -/
def execM1RamWr (a : Addr) (d : Byte) (s : State) : Out :=
  s.onMbc1 fun b r => s.writeWindow b (b.params.ramShown r.ramEnable) (b.params.ramOffset r.ramBankSel a) d

end Machine
end Sys2Proof
end

