-- ==== Sys2Proof/Machine/Mbc2.lean ====
section
/-! DEFINITION. The MBC2 variant (43_mbc2.md): 512 four-bit cells, repeated through the RAM window. -/

namespace Sys2Proof
namespace Machine

/-- M2.RAMG.WR (R171). -/
def execM2RamgWr (_ : Addr) (d : Byte) (s : State) : Out :=
  s.onMbc2 fun b r =>
    s.commit (Block.afterEnableWrite { b with ctrl := .mbc2 { r with ramEnable := enableKey d } } (enableKey d) s.now)

/-- M2.ROMB.WR (R172). -/
def execM2RombWr (_ : Addr) (d : Byte) (s : State) : Out :=
  s.onMbc2 fun b r => s.commit { b with ctrl := .mbc2 { r with romBank := zeroToOne (low4 d) } }

/-- M2.NOP.WR (R173). -/
def execM2NopWr (_ : Addr) (_ : Byte) (s : State) : Out := s.onMbc2 fun _ _ => s.complete

/-- M2.ROM0.RD (R174): always bank 0. -/
def execM2Rom0Rd (a : Addr) (s : State) : Out := s.onMbc2 fun b _ => s.readRom b (romSlice a)

/-- M2.ROMX.RD (R175). -/
def execM2RomxRd (a : Addr) (s : State) : Out :=
  s.onMbc2 fun b r => s.readRom b (b.params.romOffset r.romBank.toNat a)

/-- The byte a read of a cell delivers: only the low nibble is driven (R176). -/
def mbc2Delivered (openBus cell : Byte) : Byte := openBus.extractLsb' 4 4 ++ low4 cell

/-- The cell after a write: only the low nibble is stored (R177). -/
def mbc2Stored (cell d : Byte) : Byte := cell.extractLsb' 4 4 ++ low4 d

/-- M2.RAM.RD (R176). -/
def execM2RamRd (a : Addr) (s : State) : Out :=
  s.onMbc2 fun b r =>
    if r.ramEnable then
      match b.ram.get (mbc2Slice a) with
      | some v => s.deliver (mbc2Delivered b.params.openBus v)
      | none => .fault (.outsideImage .ram (mbc2Slice a))
    else s.deliver b.params.openBus

/-- M2.RAM.WR (R177). -/
def execM2RamWr (a : Addr) (d : Byte) (s : State) : Out :=
  s.onMbc2 fun b r => s.writeWindow b r.ramEnable (mbc2Slice a) (mbc2Stored (b.ram.at (mbc2Slice a)) d)

end Machine
end Sys2Proof
end

