-- ==== Sys2Proof/Machine/Mbc3.lean ====
section
/-! DEFINITION. The MBC3 variant and its RTC register window (44_mbc3.md). -/

namespace Sys2Proof
namespace Machine

/-! ### Register writes -/

/-- M3.RAMG.WR (R191): the save carries the clock. -/
def execM3RamgWr (_ : Addr) (d : Byte) (s : State) : Out :=
  s.onMbc3 fun b r k =>
    s.commit (Block.afterEnableWrite { b with ctrl := .mbc3 { r with ramEnable := enableKey d } k } (enableKey d) s.now)

/-- M3.ROMB.WR (R192). -/
def execM3RombWr (_ : Addr) (d : Byte) (s : State) : Out :=
  s.onMbc3 fun b r k => s.commit { b with ctrl := .mbc3 { r with romBank := zeroToOne (d.extractLsb' 0 7) } k }

/-- M3.SEL.WR (R193). -/
def execM3SelWr (_ : Addr) (d : Byte) (s : State) : Out :=
  s.onMbc3 fun b r k => s.commit { b with ctrl := .mbc3 { r with sel := low4 d } k }

/-- The write completes a latch sequence: 0x01 directly after 0x00, all 8 bits of both compared (R194). -/
def Mbc3.completesLatch (r : Mbc3) (d : Byte) : Bool := r.latchReg == 0x00#8 && d == 0x01#8

/-- M3.LATCH.WR (R194): not gated by `ramEnable`. -/
def execM3LatchWr (_ : Addr) (d : Byte) (s : State) : Out :=
  s.onMbc3 fun b r k =>
    s.commit { b with ctrl := .mbc3 { r with latchReg := d }
                        (if r.completesLatch d then k.latchSequence b.params.latchPolicy s.now else k) }

/-! ### ROM reads -/

/-- M3.ROM0.RD (R195): always bank 0. -/
def execM3Rom0Rd (a : Addr) (s : State) : Out := s.onMbc3 fun b _ _ => s.readRom b (romSlice a)

/-- M3.ROMX.RD (R196). -/
def execM3RomxRd (a : Addr) (s : State) : Out :=
  s.onMbc3 fun b r _ => s.readRom b (b.params.romOffset r.romBank.toNat a)

/-! ### The RAM and RTC window (R197) -/

/-- Run `f` where the window reaches `t`; otherwise the row does not exist. -/
def State.onWindow (s : State) (t : Mbc3Target) (f : Block → Mbc3 → Rtc → Out) : Out :=
  s.onMbc3 fun b r k => if mbc3Target r.ramEnable r.sel b.params.ramBanks = t then f b r k else .refused .rowNotInForce

/-- M3.RAM.RD (R198). -/
def execM3RamRd (a : Addr) (s : State) : Out :=
  s.onWindow .ram fun b r _ => s.readRam b (b.params.ramOffset r.sel.toNat a)

/-- M3.RAM.WR (R199). -/
def execM3RamWr (a : Addr) (d : Byte) (s : State) : Out :=
  s.onWindow .ram fun b r _ => s.writeRam b (b.params.ramOffset r.sel.toNat a) d

/-- M3.NONE.RD (R200). -/
def execM3NoneRd (_ : Addr) (s : State) : Out := s.onWindow .none fun b _ _ => s.deliver b.params.openBus

/-- M3.NONE.WR (R201). -/
def execM3NoneWr (_ : Addr) (_ : Byte) (s : State) : Out := s.onWindow .none fun _ _ _ => s.complete

/-! ### RTC register reads (R202 to R206) -/

/-- M3.RTCS.RD (R202). -/
def execM3RtcsRd (_ : Addr) (s : State) : Out :=
  s.onWindow .seconds fun b _ k => s.deliver (k.getSeconds b.params.tickHz s.now)

/-- M3.RTCM.RD (R203). -/
def execM3RtcmRd (_ : Addr) (s : State) : Out :=
  s.onWindow .minutes fun b _ k => s.deliver (k.getMinutes b.params.tickHz s.now)

/-- M3.RTCH.RD (R204). -/
def execM3RtchRd (_ : Addr) (s : State) : Out :=
  s.onWindow .hours fun b _ k => s.deliver (k.getHours b.params.tickHz s.now)

/-- M3.RTCDL.RD (R205). -/
def execM3RtcdlRd (_ : Addr) (s : State) : Out :=
  s.onWindow .dayLow fun b _ k => s.deliver (k.getDL b.params.tickHz s.now)

/-- M3.RTCDH.RD (R206). -/
def execM3RtcdhRd (_ : Addr) (s : State) : Out :=
  s.onWindow .dayHigh fun b _ k => s.deliver (k.getDH b.params.tickHz s.now)

/-! ### RTC register writes (R207 to R211) -/

/-- M3.RTCS.WR (R207). -/
def execM3RtcsWr (_ : Addr) (d : Byte) (s : State) : Out :=
  s.onWindow .seconds fun b r k => s.commit { b with ctrl := .mbc3 r (k.setSeconds d) }

/-- M3.RTCM.WR (R208). -/
def execM3RtcmWr (_ : Addr) (d : Byte) (s : State) : Out :=
  s.onWindow .minutes fun b r k => s.commit { b with ctrl := .mbc3 r (k.setMinutes d) }

/-- M3.RTCH.WR (R209). -/
def execM3RtchWr (_ : Addr) (d : Byte) (s : State) : Out :=
  s.onWindow .hours fun b r k => s.commit { b with ctrl := .mbc3 r (k.setHours d) }

/-- M3.RTCDL.WR (R210). -/
def execM3RtcdlWr (_ : Addr) (d : Byte) (s : State) : Out :=
  s.onWindow .dayLow fun b r k => s.commit { b with ctrl := .mbc3 r (k.writeDayLow d) }

/-- M3.RTCDH.WR (R211). -/
def execM3RtcdhWr (_ : Addr) (d : Byte) (s : State) : Out :=
  s.onWindow .dayHigh fun b r k => s.commit { b with ctrl := .mbc3 r (k.writeDayHigh b.params.tickHz s.now d) }

end Machine
end Sys2Proof
end

