-- ==== Sys2Proof/Machine/Mbc5.lean ====
section
/-! DEFINITION. The MBC5 variant (45_mbc5.md). -/

namespace Sys2Proof
namespace Machine

/-- M5.RAMG.WR (R231). -/
def execM5RamgWr (_ : Addr) (d : Byte) (s : State) : Out :=
  s.onMbc5 fun b r =>
    s.commit (Block.afterEnableWrite { b with ctrl := .mbc5 { r with ramEnable := enableKey d } } (enableKey d) s.now)

/-- M5.ROMB0.WR (R232): the low 8 bits, no zero translation. -/
def execM5Romb0Wr (_ : Addr) (d : Byte) (s : State) : Out :=
  s.onMbc5 fun b r => s.commit { b with ctrl := .mbc5 { r with romBank := r.romBank.extractLsb' 8 1 ++ d } }

/-- M5.ROMB1.WR (R233): bit 8. -/
def execM5Romb1Wr (_ : Addr) (d : Byte) (s : State) : Out :=
  s.onMbc5 fun b r =>
    s.commit { b with ctrl := .mbc5 { r with romBank := d.extractLsb' 0 1 ++ r.romBank.extractLsb' 0 8 } }

/-- M5.RAMB.WR (R234). -/
def execM5RambWr (_ : Addr) (d : Byte) (s : State) : Out :=
  s.onMbc5 fun b r => s.commit { b with ctrl := .mbc5 { r with ramBank := low4 d } }

/-- M5.NOP.WR (R235). -/
def execM5NopWr (_ : Addr) (_ : Byte) (s : State) : Out := s.onMbc5 fun _ _ => s.complete

/-- M5.ROM0.RD (R236): always bank 0. -/
def execM5Rom0Rd (a : Addr) (s : State) : Out := s.onMbc5 fun b _ => s.readRom b (romSlice a)

/-- M5.ROMX.RD (R237). -/
def execM5RomxRd (a : Addr) (s : State) : Out :=
  s.onMbc5 fun b r => s.readRom b (b.params.romOffset r.romBank.toNat a)

/-- M5.RAM.RD (R238). -/
def execM5RamRd (a : Addr) (s : State) : Out :=
  s.onMbc5 fun b r => s.readWindow b (b.params.ramShown r.ramEnable) (b.params.ramOffset r.ramBank.toNat a)

/-- M5.RAM.WR (R239). -/
def execM5RamWr (a : Addr) (d : Byte) (s : State) : Out :=
  s.onMbc5 fun b r => s.writeWindow b (b.params.ramShown r.ramEnable) (b.params.ramOffset r.ramBank.toNat a) d

end Machine
end Sys2Proof
end

