-- ==== Sys2Proof/Machine/Configuration.lean ====
section
/-! DEFINITION. Configuration from the cartridge header (49_configuration.md): how POWER_ON derives or takes the
parameters, and the CONFIG_* faults. -/

namespace Sys2Proof
namespace Machine

/-- A row of the cartridge-type table (R345). -/
structure CartType where
  variant : Variant
  declaresRam : Bool
  battery : Bool
  deriving DecidableEq, Repr

/-- The cartridge-type table (R345); none for any other code (R346). -/
def cartType (code : Byte) : Option CartType :=
  match code.toNat with
  | 0x00 => some ⟨.rom, false, false⟩
  | 0x01 => some ⟨.mbc1, false, false⟩
  | 0x02 => some ⟨.mbc1, true, false⟩
  | 0x03 => some ⟨.mbc1, true, true⟩
  | 0x05 => some ⟨.mbc2, true, false⟩
  | 0x06 => some ⟨.mbc2, true, true⟩
  | 0x08 => some ⟨.rom, true, false⟩
  | 0x09 => some ⟨.rom, true, true⟩
  | 0x0F => some ⟨.mbc3, false, true⟩
  | 0x10 => some ⟨.mbc3, true, true⟩
  | 0x11 => some ⟨.mbc3, false, false⟩
  | 0x12 => some ⟨.mbc3, true, false⟩
  | 0x13 => some ⟨.mbc3, true, true⟩
  | 0x19 => some ⟨.mbc5, false, false⟩
  | 0x1A => some ⟨.mbc5, true, false⟩
  | 0x1B => some ⟨.mbc5, true, true⟩
  | 0x1C => some ⟨.mbc5, false, false⟩
  | 0x1D => some ⟨.mbc5, true, false⟩
  | 0x1E => some ⟨.mbc5, true, true⟩
  | _ => none

/-- ROM-size code to `ROM_BANKS`, `2 << code` for the codes 0x00 to 0x08 (R348). -/
def romBanksOf (code : Byte) : Option Nat := if code.toNat ≤ 8 then some (2 <<< code.toNat) else none

/-- RAM-size code to the raw bank count (R349). -/
def rawRamBanksOf (code : Byte) : Option Nat :=
  match code.toNat with
  | 0x00 => some 0
  | 0x01 => some 1
  | 0x02 => some 1
  | 0x03 => some 4
  | 0x04 => some 16
  | 0x05 => some 8
  | _ => none

/-- `RAM_BANKS` from the raw count: a type that declares RAM has at least one bank (R350); MBC2 always has one (R351). -/
def resolveRamBanks (t : CartType) (raw : Nat) : Nat :=
  if t.variant = .mbc2 then 1 else if t.declaresRam && raw == 0 then 1 else raw

/-- The header's CGB flag (R344). -/
inductive CgbFlag where
  | dmgOnly | universal | cgbOnly
  deriving DecidableEq, Repr

/-- R344, on the whole byte. -/
def cgbFlagOf (v : Byte) : CgbFlag := if v = 0x80#8 then .universal else if v = 0xC0#8 then .cgbOnly else .dmgOnly

/-- Colour mode (R354). -/
def colourMode (o : ColourOverride) (f : CgbFlag) : Bool :=
  match o, f with
  | .forceCgb, _ => true
  | _, .dmgOnly => false
  | _, .cgbOnly => true
  | o, .universal => o != .forceDmg

/-- The title field, bytes 0x0134 to 0x0142 up to the first 0x00 byte (R342). No operation of the block uses it. -/
def headerTitle (rom : Buf) : List Byte :=
  ((List.range 15).map fun i => rom.at (0x0134 + i)).takeWhile fun v => v != 0

/-- The parameters from the header (R340 to R356), the checks in the order of R380. -/
def headerParams (rom : Buf) (o : ColourOverride) (dmgBoot cgbBoot : Buf) (e : Env) : Except SpecFault Params :=
  if rom.size < 0x014A then .error .configRomLength
  else match cartType (rom.at 0x0147) with
    | none => .error .configUnsupportedType
    | some t =>
      match romBanksOf (rom.at 0x0148) with
      | none => .error (.configUnsupportedRomSize (rom.at 0x0148))
      | some romBanks =>
        match rawRamBanksOf (rom.at 0x0149) with
        | none => .error (.configUnsupportedRamSize (rom.at 0x0149))
        | some raw =>
          if rom.size ≠ romBanks * Config.romBankSize then .error .configRomLength
          else .ok
            { rom := rom, variant := t.variant, romBanks := romBanks, ramBanks := resolveRamBanks t raw,
              hasBattery := t.battery, cgb := colourMode o (cgbFlagOf (rom.at 0x0143)),
              boot := if colourMode o (cgbFlagOf (rom.at 0x0143)) then cgbBoot else dmgBoot,
              openBus := e.openBus, ramFill := e.ramFill, tickHz := e.tickHz, latchPolicy := e.latchPolicy }

/-- The parameters that the configuration argument gives, or the fault POWER_ON raises. Parameters taken directly are
held to the premise on the image length (R352). -/
def resolveConfig : CartConfig → Except SpecFault Params
  | .header rom o dmgBoot cgbBoot e => headerParams rom o dmgBoot cgbBoot e
  | .direct p => if p.rom.size ≠ p.romSize then .error .configRomLength else .ok p

/-- The ranges that R7 gives the parameters (R170, R351: an MBC2 has one RAM bank). -/
def Params.inRange (p : Params) : Bool :=
  [2, 4, 8, 16, 32, 64, 128, 256, 512].contains p.romBanks && [0, 1, 4, 8, 16].contains p.ramBanks
    && (p.variant != .mbc2 || p.ramBanks == 1)
    && (p.boot.size == if p.cgb then 0x800 else 0x100) && decide (0 < p.tickHz)

/-- A configuration record of the types and ranges of R7; otherwise it is none (log 13). -/
def CartConfig.inRange : CartConfig → Bool
  | .header _ _ dmgBoot cgbBoot e => dmgBoot.size == 0x100 && cgbBoot.size == 0x800 && decide (0 < e.tickHz)
  | .direct p => p.inRange

end Machine
end Sys2Proof
end

