-- ==== Sys2Proof/Machine/Power.lean ====
section
/-! DEFINITION. Power-on and power-off (70_reset_and_hazards.md R400, R405). -/

namespace Sys2Proof
namespace Machine

/-- The controller registers' power-on values (R24 to R28, R36) and the RTC's default state (R30). -/
def Ctrl.powerOn (v : Variant) (now : Nat) : Ctrl :=
  match v with
  | .rom => .rom
  | .mbc1 => .mbc1 { ramEnable := false, bank1 := 1, bank2 := 0, mode := false }
  | .mbc2 => .mbc2 { ramEnable := false, romBank := 1 }
  | .mbc3 => .mbc3 { ramEnable := false, romBank := 1, sel := 0, latchReg := 0xFF } (Rtc.powerOn now)
  | .mbc5 => .mbc5 { ramEnable := false, romBank := 1, ramBank := 0 }

/-- The block before LOAD (R400 steps 2 to 5). -/
def Block.beforeLoad (p : Params) (now : Nat) : Block :=
  { params := p, bootOff := false, ctrl := Ctrl.powerOn p.variant now,
    ram := Buf.replicate p.ramSize p.ramFill, bat := .null }

/-- The block after POWER_ON (R400, R36): LOAD with HAS_BATTERY = 1, the no-op battery otherwise (R290). -/
def Block.powerOn (p : Params) (file : Option Buf) (now : Nat) : Block :=
  if p.hasBattery then (Block.beforeLoad p now).load file else Block.beforeLoad p now

/-- The store POWER_ON finds: as it stands, or supplied by the host (R34, R91). -/
def StoreArg.pick (st : StoreArg) (file : Option Buf) : Option Buf :=
  match st with
  | .asItStands => file
  | .supplied f => f

/-- POWER_ON (R400, R380). A fault leaves no block at all (R381); a store that cannot be read faults only where there
is a battery to load (R290, R375). -/
def execPowerOn (s : State) : Out :=
  if !s.args.config.inRange then .refused .illFormedConfig
  else
    match resolveConfig s.args.config with
    | .error f => State.raise { s with block := none, file := s.args.store.pick s.file } f
    | .ok p =>
      if p.hasBattery && !s.args.ioOk then
        State.raise { s with block := none, file := s.args.store.pick s.file } .ioFailure
      else
        State.commit { s with file := s.args.store.pick s.file }
          (Block.powerOn p (s.args.store.pick s.file) s.now)

/-- POWER_OFF (R405): every element but FILE is lost, nothing is saved or flushed. -/
def execPowerOff (s : State) : Out := .next { s with block := none, result := .done }

end Machine
end Sys2Proof
end

