-- ==== Sys2Proof/Machine/RomPlain.lean ====
section
/-! DEFINITION. The ROM variant (41_rom_plain.md). It has no register and never saves (R145). -/

namespace Sys2Proof
namespace Machine

/-- ROM.RD (R141). -/
def execRomRd (a : Addr) (s : State) : Out := s.onRom fun b => s.readRom b (a.toNat % b.params.romSize)

/-- ROM.WR (R142). -/
def execRomWr (_ : Addr) (_ : Byte) (s : State) : Out := s.onRom fun _ => s.complete

/-- ROM.RAM.RD (R143): the window always shows RAM bank 0, if there is RAM. -/
def execRomRamRd (a : Addr) (s : State) : Out :=
  s.onRom fun b => s.readWindow b (b.params.ramBanks != 0) (ramSlice a)

/-- ROM.RAM.WR (R144). -/
def execRomRamWr (a : Addr) (d : Byte) (s : State) : Out :=
  s.onRom fun b => s.writeWindow b (b.params.ramBanks != 0) (ramSlice a) d

end Machine
end Sys2Proof
end

