-- ==== Sys2Proof/Machine/Snapshot.lean ====
section
/-! DEFINITION. Snapshot and restore (48_snapshot.md). -/

namespace Sys2Proof
namespace Machine

/-- The snapshot of a block: every stored element but FILE (R322). -/
def Block.snap (b : Block) : CartSnap := { bootOff := b.bootOff, ctrl := b.ctrl, ram := b.ram, bat := b.bat }

/-- SNAPSHOT (R322): returns the value, changes no state. -/
def execSnapshot (s : State) : Out := s.onBlock fun b => .next { s with result := .snapshot b.snap }

/-- Check 2 of R324: the battery part is of the kind that HAS_BATTERY calls for. -/
def Battery.isFile : Battery → Bool
  | .null => false
  | .file _ => true

/-- Check 4 of R324: the lengths of the battery's buffers. DESIGN CHOICE (log 18): R324 tests the two in one conjunction, and
where both are wrong R374 does not say which one is recorded; here `bRam` is tested first and recorded. -/
def Battery.lengthFault (p : Params) : Battery → Option SpecFault
  | .null => none
  | .file m =>
    if m.bRam.size ≠ p.ramSize then some (.snapshotLengthMismatch .bRam)
    else if m.bClock.size ≠ Config.clockBlockSize then some (.snapshotLengthMismatch .bClock)
    else none

/-- The checks of RESTORE in the order of R324: the fault, or none. -/
def restoreFault (p : Params) (v : CartSnap) : Option SpecFault :=
  if v.ctrl.variant ≠ p.variant then some (.snapshotTypeMismatch .ctrl)
  else if v.bat.isFile ≠ p.hasBattery then some (.snapshotTypeMismatch .bat)
  else if v.ram.size ≠ p.ramSize then some (.snapshotLengthMismatch .ram)
  else v.bat.lengthFault p

/-- The block with every stored element taken from the snapshot (R325). -/
def Block.restored (b : Block) (v : CartSnap) : Block :=
  { b with bootOff := v.bootOff, ctrl := v.ctrl, ram := v.ram, bat := v.bat }

/-- RESTORE (R324, R325): all checks before any change. -/
def execRestore (s : State) : Out :=
  s.onBlock fun b =>
    match restoreFault b.params s.args.snap with
    | some f => s.raise f
    | none => s.commit (b.restored s.args.snap)

end Machine
end Sys2Proof
end

