-- ==== Sys2Proof/Machine/Dispatch.lean ====
section
/-! DEFINITION. One arm per operation: its meaning. -/

namespace Sys2Proof
namespace Machine

def exec (i : Instr) (s : State) : Host.Outcome State Fault Refusal :=
  match i with
  | .ff50Rd => Sys2Proof.Machine.execFf50Rd s
  | .ff50Wr d => Sys2Proof.Machine.execFf50Wr d s
  | .bootRd a => Sys2Proof.Machine.execBootRd a s
  | .bootcRdA a => Sys2Proof.Machine.execBootcRdA a s
  | .bootcRdB a => Sys2Proof.Machine.execBootcRdB a s
  | .bootcRdC a => Sys2Proof.Machine.execBootcRdC a s
  | .romRd a => Sys2Proof.Machine.execRomRd a s
  | .romWr a d => Sys2Proof.Machine.execRomWr a d s
  | .romRamRd a => Sys2Proof.Machine.execRomRamRd a s
  | .romRamWr a d => Sys2Proof.Machine.execRomRamWr a d s
  | .m1Rom0Rd a => Sys2Proof.Machine.execM1Rom0Rd a s
  | .m1RomxRd a => Sys2Proof.Machine.execM1RomxRd a s
  | .m1RamgWr a d => Sys2Proof.Machine.execM1RamgWr a d s
  | .m1Bank1Wr a d => Sys2Proof.Machine.execM1Bank1Wr a d s
  | .m1Bank2Wr a d => Sys2Proof.Machine.execM1Bank2Wr a d s
  | .m1ModeWr a d => Sys2Proof.Machine.execM1ModeWr a d s
  | .m1RamRd a => Sys2Proof.Machine.execM1RamRd a s
  | .m1RamWr a d => Sys2Proof.Machine.execM1RamWr a d s
  | .m2Rom0Rd a => Sys2Proof.Machine.execM2Rom0Rd a s
  | .m2RomxRd a => Sys2Proof.Machine.execM2RomxRd a s
  | .m2RamgWr a d => Sys2Proof.Machine.execM2RamgWr a d s
  | .m2RombWr a d => Sys2Proof.Machine.execM2RombWr a d s
  | .m2NopWr a d => Sys2Proof.Machine.execM2NopWr a d s
  | .m2RamRd a => Sys2Proof.Machine.execM2RamRd a s
  | .m2RamWr a d => Sys2Proof.Machine.execM2RamWr a d s
  | .m3Rom0Rd a => Sys2Proof.Machine.execM3Rom0Rd a s
  | .m3RomxRd a => Sys2Proof.Machine.execM3RomxRd a s
  | .m3RamgWr a d => Sys2Proof.Machine.execM3RamgWr a d s
  | .m3RombWr a d => Sys2Proof.Machine.execM3RombWr a d s
  | .m3SelWr a d => Sys2Proof.Machine.execM3SelWr a d s
  | .m3LatchWr a d => Sys2Proof.Machine.execM3LatchWr a d s
  | .m3RamRd a => Sys2Proof.Machine.execM3RamRd a s
  | .m3RamWr a d => Sys2Proof.Machine.execM3RamWr a d s
  | .m3NoneRd a => Sys2Proof.Machine.execM3NoneRd a s
  | .m3NoneWr a d => Sys2Proof.Machine.execM3NoneWr a d s
  | .m3RtcsRd a => Sys2Proof.Machine.execM3RtcsRd a s
  | .m3RtcmRd a => Sys2Proof.Machine.execM3RtcmRd a s
  | .m3RtchRd a => Sys2Proof.Machine.execM3RtchRd a s
  | .m3RtcdlRd a => Sys2Proof.Machine.execM3RtcdlRd a s
  | .m3RtcdhRd a => Sys2Proof.Machine.execM3RtcdhRd a s
  | .m3RtcsWr a d => Sys2Proof.Machine.execM3RtcsWr a d s
  | .m3RtcmWr a d => Sys2Proof.Machine.execM3RtcmWr a d s
  | .m3RtchWr a d => Sys2Proof.Machine.execM3RtchWr a d s
  | .m3RtcdlWr a d => Sys2Proof.Machine.execM3RtcdlWr a d s
  | .m3RtcdhWr a d => Sys2Proof.Machine.execM3RtcdhWr a d s
  | .m5Rom0Rd a => Sys2Proof.Machine.execM5Rom0Rd a s
  | .m5RomxRd a => Sys2Proof.Machine.execM5RomxRd a s
  | .m5RamgWr a d => Sys2Proof.Machine.execM5RamgWr a d s
  | .m5Romb0Wr a d => Sys2Proof.Machine.execM5Romb0Wr a d s
  | .m5Romb1Wr a d => Sys2Proof.Machine.execM5Romb1Wr a d s
  | .m5RambWr a d => Sys2Proof.Machine.execM5RambWr a d s
  | .m5NopWr a d => Sys2Proof.Machine.execM5NopWr a d s
  | .m5RamRd a => Sys2Proof.Machine.execM5RamRd a s
  | .m5RamWr a d => Sys2Proof.Machine.execM5RamWr a d s
  | .powerOn => Sys2Proof.Machine.execPowerOn s
  | .flush => Sys2Proof.Machine.execFlush s
  | .snapshot => Sys2Proof.Machine.execSnapshot s
  | .restore => Sys2Proof.Machine.execRestore s
  | .powerOff => Sys2Proof.Machine.execPowerOff s

end Machine
end Sys2Proof
end

