-- ==== Sys2Proof/Machine/Step.lean ====
section
/-! DEFINITION. One step: the oldest waiting operation is taken, decoded and run (log 1). -/

namespace Sys2Proof
namespace Machine

/-- One step (R8, R72). With nothing waiting the block waits: it has no step of its own. -/
def step (s : State) : Host.Outcome State Fault Refusal :=
  match s.pending with
  | [] => .next s
  | r :: rest =>
    match (s.accept r rest).decoded r.op with
    | .instr i => exec i (s.accept r rest)
    | .rejected e => (s.accept r rest).reject e

/-- `s` with the operation of a table word placed first in the queue, at the time that stands (log 12). -/
def State.withFetchWord (s : State) (nbits w : Nat) : State :=
  match s.opOfTable nbits w with
  | some o => { s with pending := { now := s.now, op := o } :: s.pending }
  | none => s

end Machine
end Sys2Proof
end

