-- ==== Sys2Proof/Safety.lean ====
section
/-! DEFINITION. What a well-formed state is and what a safe step is, in the terms claims use: the constraints that
10_state.md, 00_scope.md R7 and the canonical form of byte arrays put on a state, as one predicate. -/

namespace Sys2Proof

/-! ### Kinds of operation (R8, R90, R91) -/

/-- A bus transaction: format T. -/
def Instr.isBus (i : Instr) : Bool :=
  match encode i with
  | .t _ => true
  | .h _ => false

/-- A read transaction. -/
def Instr.isRead (i : Instr) : Bool :=
  match encode i with
  | .t w => !w.isWrite
  | .h _ => false

/-- A write to a RAM-enable register (the four rows that R299 names). -/
def Instr.isRamGate : Instr → Bool
  | .m1RamgWr _ _ => true
  | .m2RamgWr _ _ => true
  | .m3RamgWr _ _ => true
  | .m5RamgWr _ _ => true
  | _ => false

/-- A write that may store a RAM byte (R144, R159, R177, R199, R239). -/
def Instr.isRamWrite : Instr → Bool
  | .romRamWr _ _ => true
  | .m1RamWr _ _ => true
  | .m2RamWr _ _ => true
  | .m3RamWr _ _ => true
  | .m5RamWr _ _ => true
  | _ => false

namespace Machine

/-! ### Canonical byte arrays in whatever holds them -/

/-- A store: absent, or a canonical array. -/
def storeWf : Option Buf → Bool
  | none => true
  | some f => f.wf

/-- The battery's buffers are canonical. -/
def Battery.canonical : Battery → Bool
  | .null => true
  | .file m => m.bRam.wf && m.bClock.wf

/-- The images of a configuration argument are canonical. -/
def CartConfig.canonical : CartConfig → Bool
  | .header rom _ dmgBoot cgbBoot _ => rom.wf && dmgBoot.wf && cgbBoot.wf
  | .direct p => p.rom.wf && p.boot.wf

/-- The store argument is canonical. -/
def StoreArg.canonical : StoreArg → Bool
  | .asItStands => true
  | .supplied f => storeWf f

/-! ### The block -/

/-- The registers that never hold 0: `bank1` of MBC1 and `romBank` of MBC2 and MBC3 (R25 to R27). -/
def Ctrl.legal : Ctrl → Bool
  | .rom => true
  | .mbc1 r => r.bank1 != 0
  | .mbc2 r => r.romBank != 0
  | .mbc3 r _ => r.romBank != 0
  | .mbc5 _ => true

/-- The parameters are those of R7: their ranges, the length premise (R352), canonical images. -/
def Params.wf (p : Params) : Bool := p.inRange && p.rom.size == p.romSize && p.rom.wf && p.boot.wf

/-- The battery is the one HAS_BATTERY calls for and its buffers have their lengths (R33). -/
def Battery.fits (p : Params) (t : Battery) : Bool :=
  t.isFile == p.hasBattery && (t.lengthFault p).isNone && t.canonical

/-- The block is one that the rules describe: its registers are those of its variant (R24 to R28) and legal, RAM has
RAM_SIZE bytes (R29), the battery fits. -/
def Block.wf (b : Block) : Bool :=
  b.params.wf && b.ctrl.variant == b.params.variant && b.ctrl.legal && b.ram.size == b.params.ramSize && b.ram.wf
    && b.bat.fits b.params

/-- A snapshot that some block could have produced, but for the lengths and tags that RESTORE checks (R323, R324). -/
def CartSnap.wf (v : CartSnap) : Bool := v.ctrl.legal && v.ram.wf && v.bat.canonical

/-- Host arguments: canonical arrays and a snapshot that some block could have produced. -/
def HostArgs.wf (a : HostArgs) : Bool := a.config.canonical && a.store.canonical && a.snap.wf

/-- A waiting operation whose arguments are well formed. -/
def Request.wf (r : Request) : Bool :=
  match r.op with
  | .bus _ => true
  | .host _ a => a.wf

/-- A snapshot the block has handed out is well formed. -/
def Result.wf : Result → Bool
  | .snapshot v => v.wf
  | _ => true

/-- The invariant of the machine: the block (where there is one) is one the rules describe, and every array that stands
or waits anywhere is canonical. -/
def State.wf (s : State) : Bool :=
  (match s.block with
    | some b => b.wf
    | none => true)
  && storeWf s.file && s.pending.all Request.wf && s.args.wf && s.result.wf

/-! ### The terms of claims -/

/-- The RAM cell that operation `i` stores to on block `b` and the byte it stores there: the row's own offset (R70, the
slices of R92) where its window shows RAM, and nothing otherwise. Only the five RAM-window write rows store. -/
def Block.stored (b : Block) (i : Instr) : Option (Nat × Byte) :=
  match i, b.ctrl with
  | .romRamWr a d, .rom => if b.params.ramBanks != 0 then some (ramSlice a, d) else none
  | .m1RamWr a d, .mbc1 r =>
    if b.params.ramShown r.ramEnable then some (b.params.ramOffset r.ramBankSel a, d) else none
  | .m2RamWr a d, .mbc2 r =>
    if r.ramEnable then some (mbc2Slice a, mbc2Stored (b.ram.at (mbc2Slice a)) d) else none
  | .m3RamWr a d, .mbc3 r _ =>
    if mbc3Target r.ramEnable r.sel b.params.ramBanks = .ram then some (b.params.ramOffset r.sel.toNat a, d) else none
  | .m5RamWr a d, .mbc5 r =>
    if b.params.ramShown r.ramEnable then some (b.params.ramOffset r.ramBank.toNat a, d) else none
  | _, _ => none

/-- `x'` is `x` with byte `i` made `v`: `i` lies in the array, the size stays, every other byte reads as before. -/
def Buf.Updated (x : Buf) (i : Nat) (v : Byte) (x' : Buf) : Prop :=
  i < x.size ∧ x'.size = x.size ∧ ∀ j, x'.get j = if j = i then some v else x.get j

/-- A safe outcome: the machine does not stop with a fault. -/
def Safe : Out → Prop
  | .fault _ => False
  | _ => True

/-- The outcome is a next state. -/
def Completes : Out → Prop
  | .next _ => True
  | _ => False

end Machine
end Sys2Proof
end

