-- ==== Sys2Proof/Certificates/Slice0/Obligations.lean ====
section
/-! DEFINITION. The statements for the provers. `R<n>` is a numbered rule of spec/. A `D<n>` after it is the spec's own
mark: the rule is a decision of 92_eei_decisions.md where its source is silent. -/

open Sys2Proof Sys2Proof.Machine

/-! ## Encoding and decoding -/

/-- One word or more for each family, written out from R90 (`(W << 24) | (A << 8) | D`) and the examples of
95_test_vectors.md 2.1, decodes to the operation it stands for. -/
def Obligations.SampleWordsDecode : Prop :=
  (decode (some DecodeCtx.reset) (.t 0x0FF5000#25) = .instr .ff50Rd) ∧
  (decode (some DecodeCtx.reset) (.t 0x1FF5001#25) = .instr (.ff50Wr 0x01#8)) ∧
  (decode (some DecodeCtx.reset) (.t 0x0001000#25) = .instr (.bootRd 0x0010#16)) ∧
  (decode (some { DecodeCtx.reset with variant := .rom }) (.t 0x0A00000#25) = .instr (.romRamRd 0xA000#16)) ∧
  (decode (some DecodeCtx.reset) (.t 0x1200005#25) = .instr (.m1Bank1Wr 0x2000#16 0x05#8)) ∧
  (decode (some { DecodeCtx.reset with variant := .mbc2 }) (.t 0x1210007#25) = .instr (.m2RombWr 0x2100#16 0x07#8)) ∧
  (decode (some { DecodeCtx.reset with variant := .mbc3 }) (.t 0x1600001#25) = .instr (.m3LatchWr 0x6000#16 0x01#8)) ∧
  (decode (some { DecodeCtx.reset with variant := .mbc3, ramEnable := true, sel := 0xC#4 }) (.t 0x0A00000#25)
    = .instr (.m3RtcdhRd 0xA000#16)) ∧
  (decode (some { DecodeCtx.reset with variant := .mbc5 }) (.t 0x1300001#25) = .instr (.m5Romb1Wr 0x3000#16 0x01#8)) ∧
  (decode (some DecodeCtx.reset) (.h 0b001#3) = .instr .flush)

/-- R90: the transaction word of a write is `(1 << 24) | (a << 8) | d`, that of a read is `a << 8`, its three fields stand
at bits 24, 23:8 and 7:0, and in a read D is no input: the word decodes as the canonical one. -/
def Obligations.TransactionWordLayout : Prop :=
  (∀ (c : Option DecodeCtx) (w : TWord), w.isWrite = false → decode c (.t w) = decode c (.t (rdWord w.addr))) ∧
  ∀ (a : Addr) (d : Byte),
    (wrWord a d).toNat = 2 ^ 24 + a.toNat * 2 ^ 8 + d.toNat ∧ (rdWord a).toNat = a.toNat * 2 ^ 8 ∧
    (wrWord a d).isWrite = true ∧ (wrWord a d).addr = a ∧ (wrWord a d).data = d ∧
    (rdWord a).isWrite = false ∧ (rdWord a).addr = a ∧ (rdWord a).data = 0#8

/-- Decode and encode agree (R90 to R101): for every operation and every value of its address and data that its row
admits, in every context in which the row exists, the decoder reads the operation back from its canonical word. The
context is the parameters and state that decoding depends on (R93). -/
def Obligations.DecodeOfEncodeIsIdentity : Prop :=
  ∀ (c : DecodeCtx) (i : Instr), i.wf = true → i.inForce c = true → decode (some c) (encode i) = .instr i

/-- The other direction: an operation that the decoder yields lies in its row's window, its row exists for the context,
and its canonical word is the word decoded (for a read, with D written as 0: R90 says D is no input of a read). -/
def Obligations.DecodedOperationIsInForce : Prop :=
  ∀ (c : DecodeCtx) (w : TWord) (i : Instr), decode (some c) (.t w) = .instr i →
    i.wf = true ∧ i.inForce c = true ∧ encode i = .t (if w.isWrite then w else rdWord w.addr)

/-- R121 (D3): the addresses that `accepts` is true of. R100: a transaction word decodes to an operation exactly when its
address is claimed, whatever the variant and the state; at every other address the decoder rejects it by that address. -/
def Obligations.ExactlyClaimedAddressesDecode : Prop :=
  ∀ (c : DecodeCtx) (w : TWord),
    (accepts w.addr = true ↔ ∃ i, decode (some c) (.t w) = .instr i) ∧
    (accepts w.addr = true ↔
      (w.addr.toNat ≤ 0x7FFF ∨ (0xA000 ≤ w.addr.toNat ∧ w.addr.toNat ≤ 0xBFFF) ∨ w.addr = 0xFF50#16)) ∧
    (accepts w.addr = false → decode (some c) (.t w) = .rejected (.notClaimed w.addr))

/-- R91: the five host codes and their operations, in every context; 0b101 to 0b111 are no operation. -/
def Obligations.HostCodesDecode : Prop :=
  ∀ c : Option DecodeCtx,
    decode c (.h 0b000#3) = .instr .powerOn ∧ decode c (.h 0b001#3) = .instr .flush ∧
    decode c (.h 0b010#3) = .instr .snapshot ∧ decode c (.h 0b011#3) = .instr .restore ∧
    decode c (.h 0b100#3) = .instr .powerOff ∧
    ∀ k : HCode, 5 ≤ k.toNat → decode c (.h k) = .rejected (.unassignedHostCode k)

/-- R64: while `bootOff = 0` the overlay takes reads of 0x0000 to 0x00FF, and with CGB those of 0x0200 to 0x08FF; it
never takes 0x0100 to 0x01FF, and it never takes a write: those decode alike whatever `bootOff` holds. -/
def Obligations.OverlayTakesReadsOnly : Prop :=
  ∀ (c : DecodeCtx) (a : Addr) (d : Byte),
    (a.toNat ≤ 0x00FF → c.bootOff = false → decode (some c) (.t (rdWord a)) = .instr (.bootRd a)) ∧
    (0x0200 ≤ a.toNat → a.toNat ≤ 0x08FF → c.bootOff = false → c.cgb = true →
      decode (some c) (.t (rdWord a)) = .instr (.bootcRdA a) ∨ decode (some c) (.t (rdWord a)) = .instr (.bootcRdB a) ∨
        decode (some c) (.t (rdWord a)) = .instr (.bootcRdC a)) ∧
    (0x0100 ≤ a.toNat → a.toNat ≤ 0x01FF →
      decode (some c) (.t (rdWord a)) = decode (some { c with bootOff := true }) (.t (rdWord a))) ∧
    decode (some c) (.t (wrWord a d)) = decode (some { c with bootOff := true }) (.t (wrWord a d))

/-! ## The step -/

/-- A step takes the oldest waiting operation `r`: if it decodes, for the block as it stands, to `i`, the step is `exec i`
at the state in which `r` has left the queue, its `now` is the time input and its arguments (a host operation's) stand
at the port. With nothing waiting the step changes nothing (the model's choice, log 1). -/
def Obligations.StepRunsDecodedOperation : Prop :=
  (∀ (s : State) (r : Request) (q : List Request) (i : Instr), s.pending = r :: q →
    decode (s.block.map Block.ctx) r.op.word = .instr i →
    step s = exec i { s with
      pending := q
      now := r.now
      args := match r.op with
        | .host _ a => a
        | .bus _ => s.args }) ∧
  ∀ s : State, s.pending = [] → step s = .next s

/-- R376, R122 (D29): a bus transaction at an address that is not claimed reports UNCLAIMED_ADDRESS with the address, and
changes no state of the block and no store. -/
def Obligations.UnclaimedAddressIsReported : Prop :=
  ∀ (s : State) (b : Block) (n : Nat) (w : TWord) (q : List Request),
    s.block = some b → s.pending = { now := n, op := .bus w } :: q →
    (0x8000 ≤ w.addr.toNat ∧ w.addr.toNat ≤ 0x9FFF) ∨ (0xC000 ≤ w.addr.toNat ∧ w.addr.toNat ≤ 0xFF4F) ∨
      0xFF51 ≤ w.addr.toNat →
    step s = .next { s with pending := q, now := n, result := .fault (.unclaimedAddress w.addr) }

/-! ## Front decoder -/

/-- R128: a write of any value to 0xFF50 sets `bootOff` and changes nothing else. R129: a read of it returns 0xFF. -/
def Obligations.DisableRegister : Prop :=
  ∀ (s : State) (b : Block) (d : Byte), s.block = some b →
    exec (.ff50Wr d) s = .next { s with block := some { b with bootOff := true }, result := .done } ∧
    exec .ff50Rd s = .next { s with result := .byte 0xFF#8 }

/-- R126, R127: a read in an overlay window returns the byte of the boot image: `BOOT[A[7:0]]` in the first window,
`BOOT[A - 0x0100]` in the second (three rows of the table, one rule). Only the result changes. -/
def Obligations.BootWindowReads : Prop :=
  ∀ (s : State) (b : Block) (a : Addr), s.block = some b → b.wf = true → b.bootOff = false →
    (∃ v, b.params.boot.get (a.toNat % 0x100) = some v ∧ exec (.bootRd a) s = .next { s with result := .byte v }) ∧
    (b.params.cgb = true → 0x0200 ≤ a.toNat → a.toNat ≤ 0x08FF →
      ∃ v, b.params.boot.get (a.toNat - 0x0100) = some v ∧
        exec (.bootcRdA a) s = .next { s with result := .byte v } ∧
        exec (.bootcRdB a) s = .next { s with result := .byte v } ∧
        exec (.bootcRdC a) s = .next { s with result := .byte v })

/-- R130, first sentence: no bus transaction takes `bootOff` from 1 to 0. -/
def Obligations.BusNeverRestoresOverlay : Prop :=
  ∀ (i : Instr) (s t : State) (b : Block), i.isBus = true → s.block = some b → b.bootOff = true →
    exec i s = .next t → ∃ b', t.block = some b' ∧ b'.bootOff = true

/-! ## Banking -/

/-- R70 (D6): the translated offset is `(bank mod count) * size` plus the low address bits, and lies in the image. -/
def Obligations.BankTranslation : Prop :=
  ∀ (p : Params) (k : Nat) (a : Addr),
    (0 < p.romBanks → p.romOffset k a = k % p.romBanks * 0x4000 + a.toNat % 0x4000 ∧
      p.romOffset k a < p.romBanks * 0x4000) ∧
    (0 < p.ramBanks → p.ramOffset k a = k % p.ramBanks * 0x2000 + a.toNat % 0x2000 ∧
      p.ramOffset k a < p.ramBanks * 0x2000) ∧
    ramSlice a = a.toNat % 0x2000

/-- R174, R175 (D9), R195, R196 (D10), R236, R237 (D32): on MBC2, MBC3 and MBC5 the lower ROM window shows bank 0 and the
upper one the bank that `romBank` selects, modulo the bank count. -/
def Obligations.RomReadsThroughRomBank : Prop :=
  ∀ (s : State) (b : Block) (a : Addr), s.block = some b → b.wf = true →
    (∀ r : Mbc2, b.ctrl = .mbc2 r →
      (∃ v, b.params.rom.get (a.toNat % 0x4000) = some v ∧ exec (.m2Rom0Rd a) s = .next { s with result := .byte v }) ∧
      ∃ v, b.params.rom.get (r.romBank.toNat % b.params.romBanks * 0x4000 + a.toNat % 0x4000) = some v ∧
        exec (.m2RomxRd a) s = .next { s with result := .byte v }) ∧
    (∀ (r : Mbc3) (k : Rtc), b.ctrl = .mbc3 r k →
      (∃ v, b.params.rom.get (a.toNat % 0x4000) = some v ∧ exec (.m3Rom0Rd a) s = .next { s with result := .byte v }) ∧
      ∃ v, b.params.rom.get (r.romBank.toNat % b.params.romBanks * 0x4000 + a.toNat % 0x4000) = some v ∧
        exec (.m3RomxRd a) s = .next { s with result := .byte v }) ∧
    (∀ r : Mbc5, b.ctrl = .mbc5 r →
      (∃ v, b.params.rom.get (a.toNat % 0x4000) = some v ∧ exec (.m5Rom0Rd a) s = .next { s with result := .byte v }) ∧
      ∃ v, b.params.rom.get (r.romBank.toNat % b.params.romBanks * 0x4000 + a.toNat % 0x4000) = some v ∧
        exec (.m5RomxRd a) s = .next { s with result := .byte v })

/-! ## ROM variant -/

/-- R141, R142: the ROM window. R143, R144: the RAM window shows RAM bank 0, or nothing where there is no RAM (D33). -/
def Obligations.RomVariantWindows : Prop :=
  ∀ (s : State) (b : Block) (a : Addr) (d : Byte), s.block = some b → b.wf = true → b.ctrl = .rom →
    (∃ v, b.params.rom.get (a.toNat % (b.params.romBanks * 0x4000)) = some v ∧
      exec (.romRd a) s = .next { s with result := .byte v }) ∧
    exec (.romWr a d) s = .next { s with result := .done } ∧
    (b.params.ramBanks = 0 →
      exec (.romRamRd a) s = .next { s with result := .byte b.params.openBus } ∧
      exec (.romRamWr a d) s = .next { s with result := .done }) ∧
    (b.params.ramBanks ≠ 0 →
      (∃ v, b.ram.get (ramSlice a) = some v ∧ exec (.romRamRd a) s = .next { s with result := .byte v }) ∧
      ∃ ram, b.ram.Updated (ramSlice a) d ram ∧
        exec (.romRamWr a d) s = .next { s with block := some { b with ram := ram }, result := .done })

/-! ## MBC1 -/

/-- R152, R153, R154 (D8). -/
def Obligations.Mbc1BankRegisterWrites : Prop :=
  ∀ (s : State) (b : Block) (r : Mbc1) (a : Addr) (d : Byte), s.block = some b → b.ctrl = .mbc1 r →
    exec (.m1Bank1Wr a d) s = .next { s with
      block := some { b with ctrl := .mbc1 { r with
        bank1 := if d.toNat % 32 = 0 then 1#5 else BitVec.ofNat 5 d.toNat } }
      result := .done } ∧
    exec (.m1Bank2Wr a d) s = .next { s with
      block := some { b with ctrl := .mbc1 { r with bank2 := BitVec.ofNat 2 d.toNat } }
      result := .done } ∧
    exec (.m1ModeWr a d) s = .next { s with
      block := some { b with ctrl := .mbc1 { r with mode := decide (d.toNat % 2 = 1) } }
      result := .done }

/-- R156, R157 with the effective banks of R155 (D8): `romBankLow` is `bank2 << 5` with `mode = 1`, else 0;
`romBankHigh` is `bank2 << 5 | bank1`. -/
def Obligations.Mbc1RomReads : Prop :=
  ∀ (s : State) (b : Block) (r : Mbc1) (a : Addr), s.block = some b → b.wf = true → b.ctrl = .mbc1 r →
    (∃ v, b.params.rom.get ((if r.mode then r.bank2.toNat * 32 else 0) % b.params.romBanks * 0x4000 + a.toNat % 0x4000)
        = some v ∧ exec (.m1Rom0Rd a) s = .next { s with result := .byte v }) ∧
    (∃ v, b.params.rom.get ((r.bank2.toNat * 32 + r.bank1.toNat) % b.params.romBanks * 0x4000 + a.toNat % 0x4000)
        = some v ∧ exec (.m1RomxRd a) s = .next { s with result := .byte v })

/-- R158, R159 (D8): the RAM window shows bank `bank2` with `mode = 1`, else bank 0, or nothing; a write stores one byte
and touches nothing else. -/
def Obligations.Mbc1RamWindow : Prop :=
  ∀ (s : State) (b : Block) (r : Mbc1) (a : Addr) (d : Byte), s.block = some b → b.wf = true → b.ctrl = .mbc1 r →
    (r.ramEnable = false ∨ b.params.ramBanks = 0 →
      exec (.m1RamRd a) s = .next { s with result := .byte b.params.openBus } ∧
      exec (.m1RamWr a d) s = .next { s with result := .done }) ∧
    (r.ramEnable = true → b.params.ramBanks ≠ 0 →
      (∃ v, b.ram.get (b.params.ramOffset (if r.mode then r.bank2.toNat else 0) a) = some v ∧
        exec (.m1RamRd a) s = .next { s with result := .byte v }) ∧
      ∃ ram, b.ram.Updated (b.params.ramOffset (if r.mode then r.bank2.toNat else 0) a) d ram ∧
        exec (.m1RamWr a d) s = .next { s with block := some { b with ram := ram }, result := .done })

/-! ## MBC2 -/

/-- R172, R173 (D9). -/
def Obligations.Mbc2BankRegisterWrites : Prop :=
  ∀ (s : State) (b : Block) (r : Mbc2) (a : Addr) (d : Byte), s.block = some b → b.ctrl = .mbc2 r →
    exec (.m2RombWr a d) s = .next { s with
      block := some { b with ctrl := .mbc2 { r with
        romBank := if d.toNat % 16 = 0 then 1#4 else BitVec.ofNat 4 d.toNat } }
      result := .done } ∧
    exec (.m2NopWr a d) s = .next { s with result := .done }

/-- R176, R177 (D9): 512 cells repeated through the window; a read drives the low nibble only, the high nibble is that of
the open bus; a write stores the low nibble only. -/
def Obligations.Mbc2RamWindow : Prop :=
  ∀ (s : State) (b : Block) (r : Mbc2) (a : Addr) (d : Byte), s.block = some b → b.wf = true → b.ctrl = .mbc2 r →
    (r.ramEnable = false →
      exec (.m2RamRd a) s = .next { s with result := .byte b.params.openBus } ∧
      exec (.m2RamWr a d) s = .next { s with result := .done }) ∧
    (r.ramEnable = true →
      ∃ v, b.ram.get (mbc2Slice a) = some v ∧ mbc2Slice a = a.toNat % 0x200 ∧
        exec (.m2RamRd a) s = .next { s with result := .byte (b.params.openBus &&& 0xF0#8 ||| v &&& 0x0F#8) } ∧
        ∃ ram, b.ram.Updated (mbc2Slice a) (v &&& 0xF0#8 ||| d &&& 0x0F#8) ram ∧
          exec (.m2RamWr a d) s = .next { s with block := some { b with ram := ram }, result := .done })

/-! ## MBC3 -/

/-- R192, R193 (D10). -/
def Obligations.Mbc3BankRegisterWrites : Prop :=
  ∀ (s : State) (b : Block) (r : Mbc3) (k : Rtc) (a : Addr) (d : Byte), s.block = some b → b.ctrl = .mbc3 r k →
    exec (.m3RombWr a d) s = .next { s with
      block := some { b with ctrl := .mbc3 { r with
        romBank := if d.toNat % 128 = 0 then 1#7 else BitVec.ofNat 7 d.toNat } k }
      result := .done } ∧
    exec (.m3SelWr a d) s = .next { s with
      block := some { b with ctrl := .mbc3 { r with sel := BitVec.ofNat 4 d.toNat } k }
      result := .done }

/-- R194 and R263 (D12): a write of exactly 0x01 directly after a write of exactly 0x00 to the latch register completes the
sequence; under TOGGLE it unlatches a latched clock and latches an unlatched one, under RELATCH it latches. Every write
is remembered. `ramEnable` plays no part. -/
def Obligations.LatchRegisterWrite : Prop :=
  ∀ (s : State) (b : Block) (r : Mbc3) (k : Rtc) (a : Addr) (d : Byte), s.block = some b → b.ctrl = .mbc3 r k →
    exec (.m3LatchWr a d) s = .next { s with
      block := some { b with ctrl := .mbc3 { r with latchReg := d } (
        if r.latchReg = 0x00#8 ∧ d = 0x01#8 then
          (if b.params.latchPolicy = .toggle ∧ k.latchStart ≠ 0 then { k with latchStart := 0 }
            else { k with latchStart := s.now })
        else k) }
      result := .done }

/-- R198, R199: with RAM enabled, `sel <= 3` and RAM present, the window shows RAM bank `sel mod RAM_BANKS`. R200, R201
(D4): on the three lines of R197 whose target is nothing a read gives OPEN_BUS and a write is ignored. -/
def Obligations.Mbc3RamWindow : Prop :=
  ∀ (s : State) (b : Block) (r : Mbc3) (k : Rtc) (a : Addr) (d : Byte), s.block = some b → b.wf = true →
    b.ctrl = .mbc3 r k →
    (r.ramEnable = true → r.sel.toNat ≤ 3 → b.params.ramBanks ≠ 0 →
      (∃ v, b.ram.get (b.params.ramOffset r.sel.toNat a) = some v ∧
        exec (.m3RamRd a) s = .next { s with result := .byte v }) ∧
      ∃ ram, b.ram.Updated (b.params.ramOffset r.sel.toNat a) d ram ∧
        exec (.m3RamWr a d) s = .next { s with block := some { b with ram := ram }, result := .done }) ∧
    (r.ramEnable = false ∨ (r.sel.toNat ≤ 3 ∧ b.params.ramBanks = 0) ∨ (4 ≤ r.sel.toNat ∧ r.sel.toNat ≤ 7) ∨
        13 ≤ r.sel.toNat →
      exec (.m3NoneRd a) s = .next { s with result := .byte b.params.openBus } ∧
      exec (.m3NoneWr a d) s = .next { s with result := .done })

/-- R197: the row that a transaction in the MBC3 RAM window decodes to, by `ramEnable`, `sel` and `RAM_BANKS`. -/
def Obligations.Mbc3WindowRowsDecode : Prop :=
  ∀ (c : DecodeCtx) (a : Addr) (d : Byte), c.variant = .mbc3 → 0xA000 ≤ a.toNat → a.toNat ≤ 0xBFFF →
    (c.ramEnable = false ∨ (c.sel.toNat ≤ 3 ∧ c.ramBanks = 0) ∨ (4 ≤ c.sel.toNat ∧ c.sel.toNat ≤ 7) ∨
        13 ≤ c.sel.toNat →
      decode (some c) (.t (rdWord a)) = .instr (.m3NoneRd a) ∧
      decode (some c) (.t (wrWord a d)) = .instr (.m3NoneWr a d)) ∧
    (c.ramEnable = true →
      (c.sel.toNat ≤ 3 → 0 < c.ramBanks → decode (some c) (.t (rdWord a)) = .instr (.m3RamRd a) ∧
        decode (some c) (.t (wrWord a d)) = .instr (.m3RamWr a d)) ∧
      (c.sel = 0x8#4 → decode (some c) (.t (rdWord a)) = .instr (.m3RtcsRd a) ∧
        decode (some c) (.t (wrWord a d)) = .instr (.m3RtcsWr a d)) ∧
      (c.sel = 0x9#4 → decode (some c) (.t (rdWord a)) = .instr (.m3RtcmRd a) ∧
        decode (some c) (.t (wrWord a d)) = .instr (.m3RtcmWr a d)) ∧
      (c.sel = 0xA#4 → decode (some c) (.t (rdWord a)) = .instr (.m3RtchRd a) ∧
        decode (some c) (.t (wrWord a d)) = .instr (.m3RtchWr a d)) ∧
      (c.sel = 0xB#4 → decode (some c) (.t (rdWord a)) = .instr (.m3RtcdlRd a) ∧
        decode (some c) (.t (wrWord a d)) = .instr (.m3RtcdlWr a d)) ∧
      (c.sel = 0xC#4 → decode (some c) (.t (rdWord a)) = .instr (.m3RtcdhRd a) ∧
        decode (some c) (.t (wrWord a d)) = .instr (.m3RtcdhWr a d)))

/-- R202 to R206 (D11): with RAM enabled and `sel` 0x8 to 0xC the window reads the selected RTC register at `now`, at any
of its addresses. `ClockRegisterValues` says what those registers are. -/
def Obligations.ClockRegisterReads : Prop :=
  ∀ (s : State) (b : Block) (r : Mbc3) (k : Rtc) (a : Addr), s.block = some b → b.ctrl = .mbc3 r k →
    r.ramEnable = true →
    (r.sel = 0x8#4 →
      exec (.m3RtcsRd a) s = .next { s with result := .byte (k.getSeconds b.params.tickHz s.now) }) ∧
    (r.sel = 0x9#4 →
      exec (.m3RtcmRd a) s = .next { s with result := .byte (k.getMinutes b.params.tickHz s.now) }) ∧
    (r.sel = 0xA#4 →
      exec (.m3RtchRd a) s = .next { s with result := .byte (k.getHours b.params.tickHz s.now) }) ∧
    (r.sel = 0xB#4 →
      exec (.m3RtcdlRd a) s = .next { s with result := .byte (k.getDL b.params.tickHz s.now) }) ∧
    (r.sel = 0xC#4 →
      exec (.m3RtcdhRd a) s = .next { s with result := .byte (k.getDH b.params.tickHz s.now) })

/-- R207 to R210, with the setters of R267 to R270 (D14): a write to a selected time register goes to its shadow while
halted and is discarded while running. -/
def Obligations.ClockRegisterWrites : Prop :=
  ∀ (s : State) (b : Block) (r : Mbc3) (k : Rtc) (a : Addr) (d : Byte), s.block = some b → b.ctrl = .mbc3 r k →
    r.ramEnable = true →
    (r.sel = 0x8#4 → exec (.m3RtcsWr a d) s = .next { s with
      block := some { b with ctrl := .mbc3 r (if k.halt then { k with haltSeconds := d } else k) }
      result := .done }) ∧
    (r.sel = 0x9#4 → exec (.m3RtcmWr a d) s = .next { s with
      block := some { b with ctrl := .mbc3 r (if k.halt then { k with haltMinutes := d } else k) }
      result := .done }) ∧
    (r.sel = 0xA#4 → exec (.m3RtchWr a d) s = .next { s with
      block := some { b with ctrl := .mbc3 r (if k.halt then { k with haltHours := d } else k) }
      result := .done }) ∧
    (r.sel = 0xB#4 → exec (.m3RtcdlWr a d) s = .next { s with
      block := some { b with ctrl := .mbc3 r (
        if k.halt then { k with haltDays := BitVec.ofNat 9 (k.haltDays.toNat / 256 * 256 + d.toNat) } else k) }
      result := .done })

/-- R211 (D13): the day-high write's three effects in their order: day bit 8 under the halt state before the write, then
`setHalt(D[6])`, then, with `D[7] = 0`, `clearCounterOverflow`. -/
def Obligations.DayHighWrite : Prop :=
  ∀ (s : State) (b : Block) (r : Mbc3) (k k1 k2 k3 : Rtc) (a : Addr) (d : Byte), s.block = some b →
    b.ctrl = .mbc3 r k → r.ramEnable = true → r.sel = 0xC#4 →
    k1 = (if k.halt then
      { k with haltDays := BitVec.ofNat 9 (k.haltDays.toNat % 256 + 256 * (d.toNat % 2)) } else k) →
    k2 = k1.setHalt b.params.tickHz s.now (decide (d.toNat / 64 % 2 = 1)) →
    k3 = (if d.toNat / 128 = 1 then k2 else k2.clearCounterOverflow b.params.tickHz s.now) →
    exec (.m3RtcdhWr a d) s = .next { s with block := some { b with ctrl := .mbc3 r k3 }, result := .done }

/-! ## MBC5 -/

/-- R232, R233, R234, R235 (D32): the 9-bit ROM bank in two parts with no zero translation, the RAM bank, and the
no-effect write. -/
def Obligations.Mbc5BankRegisterWrites : Prop :=
  ∀ (s : State) (b : Block) (r : Mbc5) (a : Addr) (d : Byte), s.block = some b → b.ctrl = .mbc5 r →
    exec (.m5Romb0Wr a d) s = .next { s with
      block := some { b with ctrl := .mbc5 { r with
        romBank := BitVec.ofNat 9 (r.romBank.toNat / 256 * 256 + d.toNat) } }
      result := .done } ∧
    exec (.m5Romb1Wr a d) s = .next { s with
      block := some { b with ctrl := .mbc5 { r with
        romBank := BitVec.ofNat 9 (d.toNat % 2 * 256 + r.romBank.toNat % 256) } }
      result := .done } ∧
    exec (.m5RambWr a d) s = .next { s with
      block := some { b with ctrl := .mbc5 { r with ramBank := BitVec.ofNat 4 d.toNat } }
      result := .done } ∧
    exec (.m5NopWr a d) s = .next { s with result := .done }

/-- R238, R239 (D32). -/
def Obligations.Mbc5RamWindow : Prop :=
  ∀ (s : State) (b : Block) (r : Mbc5) (a : Addr) (d : Byte), s.block = some b → b.wf = true → b.ctrl = .mbc5 r →
    (r.ramEnable = false ∨ b.params.ramBanks = 0 →
      exec (.m5RamRd a) s = .next { s with result := .byte b.params.openBus } ∧
      exec (.m5RamWr a d) s = .next { s with result := .done }) ∧
    (r.ramEnable = true → b.params.ramBanks ≠ 0 →
      (∃ v, b.ram.get (b.params.ramOffset r.ramBank.toNat a) = some v ∧
        exec (.m5RamRd a) s = .next { s with result := .byte v }) ∧
      ∃ ram, b.ram.Updated (b.params.ramOffset r.ramBank.toNat a) d ram ∧
        exec (.m5RamWr a d) s = .next { s with block := some { b with ram := ram }, result := .done })

/-! ## RAM enable and the save it triggers -/

/-- R151, R171, R231 with the save of R299 and R300 (D5, D21) on the variants without a clock: the flag is set exactly
when the low nibble is 0xA; a write that leaves it clear copies RAM to the mirror and marks it dirty (the no-op battery
does nothing, R290). -/
def Obligations.RamEnableWrites : Prop :=
  ∀ (s : State) (b : Block) (a : Addr) (d : Byte) (saved : Battery), s.block = some b →
    saved = (if d.toNat % 16 = 10 then b.bat else
      match b.bat with
      | .null => .null
      | .file m => .file { m with bRam := b.ram, dirty := true }) →
    (∀ r : Mbc1, b.ctrl = .mbc1 r → exec (.m1RamgWr a d) s = .next { s with
      block := some { b with ctrl := .mbc1 { r with ramEnable := decide (d.toNat % 16 = 10) }, bat := saved }
      result := .done }) ∧
    (∀ r : Mbc2, b.ctrl = .mbc2 r → exec (.m2RamgWr a d) s = .next { s with
      block := some { b with ctrl := .mbc2 { r with ramEnable := decide (d.toNat % 16 = 10) }, bat := saved }
      result := .done }) ∧
    (∀ r : Mbc5, b.ctrl = .mbc5 r → exec (.m5RamgWr a d) s = .next { s with
      block := some { b with ctrl := .mbc5 { r with ramEnable := decide (d.toNat % 16 = 10) }, bat := saved }
      result := .done })

/-- R191 with R299 and R300 (D21): on MBC3 the save also takes the clock block of `serialize(now)` and marks the clock
present. `TimeVectorContents` and `ClockBlockBytes` say what that block holds. -/
def Obligations.Mbc3RamEnableWriteSavesClock : Prop :=
  ∀ (s : State) (b : Block) (r : Mbc3) (k : Rtc) (a : Addr) (d : Byte), s.block = some b → b.ctrl = .mbc3 r k →
    exec (.m3RamgWr a d) s = .next { s with
      block := some { b with
        ctrl := .mbc3 { r with ramEnable := decide (d.toNat % 16 = 10) } k
        bat := if d.toNat % 16 = 10 then b.bat else
          match b.bat with
          | .null => .null
          | .file _ => .file
            { bRam := b.ram, bClock := clockBlock (k.serialize b.params.tickHz s.now), clockPresent := true,
              dirty := true } }
      result := .done }

/-- R299 (D21): among bus transactions, only a RAM-enable write that leaves `ramEnable = 0` changes the battery, and only
where there is one. -/
def Obligations.OnlyDisablingWritesSave : Prop :=
  ∀ (i : Instr) (s t : State) (b b' : Block), i.isBus = true → s.block = some b → exec i s = .next t →
    t.block = some b' → b'.bat ≠ b.bat →
    i.isRamGate = true ∧ b'.ctx.ramEnable = false ∧ b.bat.isFile = true

/-! ## The real-time clock -/

/-- R252 to R259 (D11, D15, D17): the displayed registers as functions of the stored state and `now`. `b` is the basis,
`t` the clock time. -/
def Obligations.ClockRegisterValues : Prop :=
  ∀ (hz now : Nat) (k : Rtc) (b t : Int),
    b = (if k.latchStart = 0 then (now : Int) else k.latchStart) →
    t = max 0 (b - k.clockStart) / (hz : Int) + k.offsetSec →
    ((k.getSeconds hz now).toNat : Int) = (if k.halt then (k.haltSeconds.toNat : Int) else t % 60) ∧
    ((k.getMinutes hz now).toNat : Int) = (if k.halt then (k.haltMinutes.toNat : Int) else t / 60 % 60) ∧
    ((k.getHours hz now).toNat : Int) = (if k.halt then (k.haltHours.toNat : Int) else t / 3600 % 24) ∧
    ((k.getDayCounter hz now).toNat : Int) = (if k.halt then (k.haltDays.toNat : Int) else t % 44236800 / 86400) ∧
    k.isCounterOverflow hz now = decide (44236800 ≤ t) ∧
    (k.getDL hz now).toNat = (k.getDayCounter hz now).toNat % 256 ∧
    (k.getDH hz now).toNat = (k.getDayCounter hz now).toNat / 256 + 64 * k.halt.toNat +
      128 * (k.isCounterOverflow hz now).toNat

/-- R264, R265, R266 (D18): entering halt captures the wall-clock registers in the shadows; leaving it recomputes the offset
from the shadows and starts counting at `now`; no transition, no effect. -/
def Obligations.HaltTransitions : Prop :=
  ∀ (hz now : Nat) (k : Rtc) (t : Int), t = max 0 ((now : Int) - k.clockStart) / (hz : Int) + k.offsetSec →
    (k.halt = false → k.setHalt hz now true = { k with
      halt := true
      haltSeconds := BitVec.ofInt 8 (t % 60)
      haltMinutes := BitVec.ofInt 8 (t / 60 % 60)
      haltHours := BitVec.ofInt 8 (t / 3600 % 24)
      haltDays := BitVec.ofInt 9 (t % 44236800 / 86400) }) ∧
    (k.halt = true → k.setHalt hz now false = { k with
      halt := false
      offsetSec := k.haltSeconds.toNat + 60 * k.haltMinutes.toNat + 3600 * k.haltHours.toNat
        + 86400 * k.haltDays.toNat
      clockStart := now }) ∧
    k.setHalt hz now k.halt = k

/-- R271 (D15): `clearCounterOverflow` is the loop that subtracts whole 512-day periods from the offset while the counter
overflows; afterwards it does not overflow, the clock time is unchanged modulo the period (and stays non-negative), and
the four displayed registers keep their values. -/
def Obligations.ClearOverflowIsTheLoop : Prop :=
  ∀ (hz now : Nat) (k : Rtc),
    (∃ n : Nat,
      k.clearCounterOverflow hz now = { k with offsetSec := k.offsetSec - n * 44236800 } ∧
      (∀ m : Nat, m < n → ({ k with offsetSec := k.offsetSec - m * 44236800 } : Rtc).isCounterOverflow hz now = true)) ∧
    (k.clearCounterOverflow hz now).isCounterOverflow hz now = false ∧
    (k.clearCounterOverflow hz now).readTime hz now % 44236800 = k.readTime hz now % 44236800 ∧
    (0 ≤ k.readTime hz now → 0 ≤ (k.clearCounterOverflow hz now).readTime hz now) ∧
    (k.clearCounterOverflow hz now).getSeconds hz now = k.getSeconds hz now ∧
    (k.clearCounterOverflow hz now).getMinutes hz now = k.getMinutes hz now ∧
    (k.clearCounterOverflow hz now).getHours hz now = k.getHours hz now ∧
    (k.clearCounterOverflow hz now).getDayCounter hz now = k.getDayCounter hz now

/-- R272 (D19): the time vector is the five registers at the wall clock (as if not latched), their copies, and the whole
seconds since the epoch, where those fit 32 bits (R280; beyond them the model's choice of log 10 applies). -/
def Obligations.TimeVectorContents : Prop :=
  ∀ (hz now : Nat) (k u : Rtc), u = { k with latchStart := 0 } →
    (k.serialize hz now).map BitVec.toNat =
      [(u.getSeconds hz now).toNat, (u.getMinutes hz now).toNat, (u.getHours hz now).toNat, (u.getDL hz now).toNat,
       (u.getDH hz now).toNat,
       (u.getSeconds hz now).toNat, (u.getMinutes hz now).toNat, (u.getHours hz now).toNat, (u.getDL hz now).toNat,
       (u.getDH hz now).toNat, now / hz % 2 ^ 32]

/-- R273, R274: the clock block is the vector's 32-bit elements, little-endian, and reading it back gives the vector. -/
def Obligations.ClockBlockBytes : Prop :=
  ∀ v : List (BitVec 32), v.length = 11 →
    (clockBlock v).size = 44 ∧
    (∀ i j, i < 11 → j < 4 → (clockBlock v).get (4 * i + j) = some (BitVec.ofNat 8 ((v.getD i 0).toNat / 2 ^ (8 * j)))) ∧
    blockVector (clockBlock v) = v

/-- R275 (D20): the whole RTC state from a vector. -/
def Obligations.DeserializeSetsClock : Prop :=
  ∀ (hz : Nat) (v0 v1 v2 v3 v4 v5 v6 v7 v8 v9 v10 : BitVec 32) (k : Rtc),
    k = Rtc.deserialize hz [v0, v1, v2, v3, v4, v5, v6, v7, v8, v9, v10] →
    k.offsetSec = v0.toNat + 60 * v1.toNat + 3600 * v2.toNat + 86400 * (v3.toNat + 256 * (v4.toNat % 2))
      + (if v4.toNat / 128 % 2 = 1 then 44236800 else 0) ∧
    k.clockStart = v10.toNat * hz ∧ k.halt = decide (v4.toNat / 64 % 2 = 1) ∧
    k.haltSeconds.toNat = v0.toNat % 256 ∧ k.haltMinutes.toNat = v1.toNat % 256 ∧ k.haltHours.toNat = v2.toNat % 256 ∧
    k.haltDays.toNat = 256 * (v4.toNat % 2) + v3.toNat % 256 ∧ k.latchStart = 0

/-- R276: a clock saved to its block and loaded from it at the same instant shows the same registers: seconds, minutes,
hours, day counter, halt and, where a halted clock's shadows are in range, the carry. The latch is not saved. -/
def Obligations.ClockSurvivesItsBlock : Prop :=
  ∀ (hz now : Nat) (k k' : Rtc), 0 < hz → now / hz < 2 ^ 32 → k.latchStart = 0 →
    k' = Rtc.deserialize hz (blockVector (clockBlock (k.serialize hz now))) →
    k'.getSeconds hz now = k.getSeconds hz now ∧ k'.getMinutes hz now = k.getMinutes hz now ∧
    k'.getHours hz now = k.getHours hz now ∧ k'.getDayCounter hz now = k.getDayCounter hz now ∧
    k'.halt = k.halt ∧ k'.latchStart = 0 ∧
    (k.halt = false ∨ (k.haltSeconds.toNat < 60 ∧ k.haltMinutes.toNat < 60 ∧ k.haltHours.toNat < 24) →
      k'.isCounterOverflow hz now = k.isCounterOverflow hz now)

/-- R277: halting and resuming a running, unlatched clock at one instant leaves every register read but the carry
unchanged. -/
def Obligations.HaltToggleKeepsRegisters : Prop :=
  ∀ (hz now : Nat) (k k' : Rtc), k.halt = false → k.latchStart = 0 →
    k' = (k.setHalt hz now true).setHalt hz now false →
    k'.getSeconds hz now = k.getSeconds hz now ∧ k'.getMinutes hz now = k.getMinutes hz now ∧
    k'.getHours hz now = k.getHours hz now ∧ k'.getDL hz now = k.getDL hz now ∧
    k'.getDayCounter hz now = k.getDayCounter hz now ∧ k'.halt = k.halt ∧ k'.isCounterOverflow hz now = false

/-! ## Flush and the store -/

/-- R305, R310, R307 (D24): without a battery, or with nothing dirty, a flush does nothing. One that the store accepts makes
the store the mirror, followed by the clock block if the pending save carries one, and clears both flags. One that the
store refuses reports IO_FAILURE and changes no state of the block; what the store then holds is a free value (log 6), and
the statement holds for every value of it. -/
def Obligations.FlushOutcomes : Prop :=
  ∀ (s : State) (b : Block), s.block = some b → b.wf = true →
    (b.bat = .null → exec .flush s = .next { s with result := .done }) ∧
    (∀ m, b.bat = .file m →
      (m.dirty = false → exec .flush s = .next { s with result := .done }) ∧
      (m.dirty = true → s.args.ioOk = true →
        ∃ f : Buf, f.size = m.bRam.size + (if m.clockPresent then 44 else 0) ∧
          (∀ j, j < m.bRam.size → f.get j = m.bRam.get j) ∧
          (∀ j, m.clockPresent = true → j < 44 → f.get (m.bRam.size + j) = m.bClock.get j) ∧
          exec .flush s = .next { s with
            block := some { b with bat := .file { m with dirty := false, clockPresent := false } }
            file := some f
            result := .done }) ∧
      (m.dirty = true → s.args.ioOk = false →
        ∃ f n, exec .flush s = .next { s with file := f, freeCount := n, result := .fault .ioFailure }))

/-- R306: after a successful flush a second one, whatever the store then accepts, does nothing. R307: after a failed one, a
flush that the store accepts leaves the block and the store as if the first had succeeded. -/
def Obligations.FlushIsIdempotent : Prop :=
  ∀ (s t : State) (a a' : HostArgs), exec .flush { s with args := a } = .next t →
    (a.ioOk = true → exec .flush { t with args := a' } = .next { t with args := a', result := .done }) ∧
    (a.ioOk = false → a'.ioOk = true →
      ∃ t' u, exec .flush { t with args := a' } = .next t' ∧ exec .flush { s with args := a' } = .next u ∧
        t'.block = u.block ∧ t'.file = u.file ∧ t'.result = u.result)

/-! ## Snapshot and restore -/

/-- R322 (D37): SNAPSHOT returns every stored element but the store, and changes nothing else. -/
def Obligations.SnapshotReturnsState : Prop :=
  ∀ (s : State) (b : Block), s.block = some b →
    exec .snapshot s = .next { s with
      result := .snapshot { bootOff := b.bootOff, ctrl := b.ctrl, ram := b.ram, bat := b.bat } }

/-- R324, R325: RESTORE checks, in this order, the controller's kind, the battery's kind, the length of RAM and the lengths
of the battery's buffers, and reports the first that fails with no change; if all pass, every stored element takes
its value from the snapshot and the store stays. That `bRam` is the buffer recorded where the lengths of `bRam` and
`bClock` are both wrong is the model's own choice (log 18): check 4 of R324 gives the two no order. -/
def Obligations.RestoreChecksThenRestores : Prop :=
  ∀ (s : State) (b : Block) (v : CartSnap), s.block = some b → s.args.snap = v →
    (v.ctrl.variant ≠ b.params.variant →
      exec .restore s = .next { s with result := .fault (.snapshotTypeMismatch .ctrl) }) ∧
    (v.ctrl.variant = b.params.variant →
      (v.bat.isFile ≠ b.params.hasBattery →
        exec .restore s = .next { s with result := .fault (.snapshotTypeMismatch .bat) }) ∧
      (v.bat.isFile = b.params.hasBattery →
        (v.ram.size ≠ b.params.ramBanks * 0x2000 →
          exec .restore s = .next { s with result := .fault (.snapshotLengthMismatch .ram) }) ∧
        (v.ram.size = b.params.ramBanks * 0x2000 →
          (∀ m, v.bat = .file m → m.bRam.size ≠ b.params.ramBanks * 0x2000 →
            exec .restore s = .next { s with result := .fault (.snapshotLengthMismatch .bRam) }) ∧
          (∀ m, v.bat = .file m → m.bRam.size = b.params.ramBanks * 0x2000 → m.bClock.size ≠ 44 →
            exec .restore s = .next { s with result := .fault (.snapshotLengthMismatch .bClock) }) ∧
          ((∀ m, v.bat = .file m → m.bRam.size = b.params.ramBanks * 0x2000 ∧ m.bClock.size = 44) →
            exec .restore s = .next { s with
              block := some { b with bootOff := v.bootOff, ctrl := v.ctrl, ram := v.ram, bat := v.bat }
              result := .done }))))

/-- R326: restoring the snapshot that SNAPSHOT took of a block brings every element of it back, whatever the block of the
same parameters holds by then; the store keeps its value. -/
def Obligations.RestoreOfSnapshotBringsStateBack : Prop :=
  ∀ (s0 t0 s1 : State) (b0 b1 : Block) (v : CartSnap), s0.block = some b0 → b0.wf = true →
    exec .snapshot s0 = .next t0 → t0.result = .snapshot v →
    s1.block = some b1 → b1.params = b0.params → s1.args.snap = v →
    exec .restore s1 = .next { s1 with block := some b0, result := .done }

/-! ## Power -/

/-- R400 steps 2 to 5 and R36 (D7, D22, D23), R290, R295: POWER_ON with parameters `p` and nothing to load (no battery, or
no save image). -/
def Obligations.PowerOnWithoutSaveImage : Prop :=
  ∀ (s : State) (p : Params) (f : Option Buf), s.args.config.inRange = true → resolveConfig s.args.config = .ok p →
    f = (match s.args.store with
      | .asItStands => s.file
      | .supplied g => g) →
    (p.hasBattery = false ∨ (s.args.ioOk = true ∧ f = none)) →
    ∃ ram : Buf, ram.size = p.ramBanks * 0x2000 ∧ (∀ i, i < ram.size → ram.get i = some p.ramFill) ∧
      exec .powerOn s = .next { s with
        file := f
        block := some
          { params := p
            bootOff := false
            ctrl := match p.variant with
              | .rom => .rom
              | .mbc1 => .mbc1 { ramEnable := false, bank1 := 1#5, bank2 := 0#2, mode := false }
              | .mbc2 => .mbc2 { ramEnable := false, romBank := 1#4 }
              | .mbc3 => .mbc3 { ramEnable := false, romBank := 1#7, sel := 0#4, latchReg := 0xFF#8 }
                  { clockStart := s.now, offsetSec := 0, halt := false, latchStart := 0, haltSeconds := 0#8,
                    haltMinutes := 0#8, haltHours := 0#8, haltDays := 0#9 }
              | .mbc5 => .mbc5 { ramEnable := false, romBank := 1#9, ramBank := 0#4 }
            ram := ram
            bat := if p.hasBattery then
                .file { bRam := ram, bClock := { size := 44, cells := [] }, clockPresent := false, dirty := false }
              else .null }
        result := .done }

/-- R292 to R294, R296 (D23): POWER_ON of a battery cartridge with a save image `f`: RAM takes the image's bytes as far as
both go, the rest is RAM_FILL; an MBC3 whose image has 44 bytes more takes its clock from the first 44 of them. -/
def Obligations.PowerOnLoadsSaveImage : Prop :=
  ∀ (s : State) (p : Params) (f : Buf), s.args.config.inRange = true → resolveConfig s.args.config = .ok p →
    p.hasBattery = true → s.args.ioOk = true → f.wf = true →
    (match s.args.store with
      | .asItStands => s.file
      | .supplied g => g) = some f →
    ∃ (b : Block) (m : FileBattery),
      exec .powerOn s = .next { s with file := some f, block := some b, result := .done } ∧
      b.params = p ∧ b.bootOff = false ∧ b.ram.size = p.ramBanks * 0x2000 ∧
      (∀ i, i < b.ram.size → b.ram.get i = if i < f.size then f.get i else some p.ramFill) ∧
      b.bat = .file m ∧ m.bRam = b.ram ∧ m.dirty = false ∧ m.clockPresent = false ∧ m.bClock.size = 44 ∧
      (p.variant = .mbc3 → p.ramBanks * 0x2000 + 44 ≤ f.size →
        (∀ i, i < 44 → m.bClock.get i = f.get (p.ramBanks * 0x2000 + i)) ∧
        b.ctrl = .mbc3 { ramEnable := false, romBank := 1#7, sel := 0#4, latchReg := 0xFF#8 }
          (Rtc.deserialize p.tickHz (blockVector m.bClock))) ∧
      (p.variant ≠ .mbc3 ∨ f.size < p.ramBanks * 0x2000 + 44 →
        m.bClock = { size := 44, cells := [] } ∧
        b.ctrl = match p.variant with
          | .rom => .rom
          | .mbc1 => .mbc1 { ramEnable := false, bank1 := 1#5, bank2 := 0#2, mode := false }
          | .mbc2 => .mbc2 { ramEnable := false, romBank := 1#4 }
          | .mbc3 => .mbc3 { ramEnable := false, romBank := 1#7, sel := 0#4, latchReg := 0xFF#8 }
              { clockStart := s.now, offsetSec := 0, halt := false, latchStart := 0, haltSeconds := 0#8,
                haltMinutes := 0#8, haltHours := 0#8, haltDays := 0#9 }
          | .mbc5 => .mbc5 { ramEnable := false, romBank := 1#9, ramBank := 0#4 })

/-- R380 (D29), R371, R372, R378, R381: the checks of POWER_ON from a header in their order. The first that fails is
reported, and there is no block afterwards. That the store a host supplies with the operation then stands in FILE is the
model's own choice (log 4, log 7) and no rule of the spec. -/
def Obligations.PowerOnReportsFirstFault : Prop :=
  ∀ (s : State) (rom dmg cgb : Buf) (o : ColourOverride) (e : Env) (report : SpecFault → Prop),
    s.args.config = .header rom o dmg cgb e → s.args.config.inRange = true →
    report = (fun x => exec .powerOn s = .next { s with
      block := none
      file := match s.args.store with
        | .asItStands => s.file
        | .supplied g => g
      result := .fault x }) →
    (rom.size < 0x014A → report .configRomLength) ∧
    (0x014A ≤ rom.size →
      (cartType (rom.at 0x0147) = none → report .configUnsupportedType) ∧
      (∀ t, cartType (rom.at 0x0147) = some t →
        (romBanksOf (rom.at 0x0148) = none → report (.configUnsupportedRomSize (rom.at 0x0148))) ∧
        (∀ n, romBanksOf (rom.at 0x0148) = some n →
          (rawRamBanksOf (rom.at 0x0149) = none → report (.configUnsupportedRamSize (rom.at 0x0149))) ∧
          (∀ raw, rawRamBanksOf (rom.at 0x0149) = some raw →
            (rom.size ≠ n * 0x4000 → report .configRomLength) ∧
            (rom.size = n * 0x4000 → t.battery = true → s.args.ioOk = false → report .ioFailure)))))

/-- R352 (D35), whichever way the configuration comes, taken directly or from a header: an image whose length is not
`ROM_BANKS * 0x4000` is CONFIG_ROM_LENGTH. R375 and R290, of POWER_ON: a configuration that is good, with a battery, on a
store that cannot be read is IO_FAILURE. A POWER_ON that faults leaves no block (R381) and, where the host supplies none,
the store as it stood. -/
def Obligations.PowerOnLengthAndStoreFaults : Prop :=
  ∀ (s : State) (report : SpecFault → Prop), s.args.config.inRange = true →
    report = (fun x => ∃ t, exec .powerOn s = .next t ∧ t.result = .fault x ∧ t.block = none ∧
      (s.args.store = .asItStands → t = { s with block := none, result := .fault x })) →
    (∀ p : Params, s.args.config = .direct p → p.rom.size ≠ p.romBanks * 0x4000 → report .configRomLength) ∧
    (∀ (rom dmg cgb : Buf) (o : ColourOverride) (e : Env) (t : CartType) (n raw : Nat),
      s.args.config = .header rom o dmg cgb e → cartType (rom.at 0x0147) = some t →
      romBanksOf (rom.at 0x0148) = some n → rawRamBanksOf (rom.at 0x0149) = some raw → rom.size ≠ n * 0x4000 →
      report .configRomLength) ∧
    (∀ p : Params, s.args.config = .direct p → p.rom.size = p.romBanks * 0x4000 → p.hasBattery = true →
      s.args.ioOk = false → report .ioFailure) ∧
    (∀ p : Params, resolveConfig s.args.config = .ok p → p.hasBattery = true → s.args.ioOk = false → report .ioFailure)

/-- R405 (D40): POWER_OFF loses every element but the store, and saves or flushes nothing. -/
def Obligations.PowerOffKeepsStoreOnly : Prop :=
  ∀ s : State, exec .powerOff s = .next { s with block := none, result := .done }

/-- R401: the block after POWER_ON depends on the earlier life of the block only through the store: two machines with the
same store, arguments and time end in the same block. -/
def Obligations.PowerOnForgetsEarlierLife : Prop :=
  ∀ s s' t : State, s'.file = s.file → s'.args = s.args → s'.now = s.now → exec .powerOn s = .next t →
    ∃ t', exec .powerOn s' = .next t' ∧ t'.block = t.block ∧ t'.file = t.file ∧ t'.result = t.result

/-- R313: RAM survives a save, a flush, a power-off and a power-on with the same configuration. `i` is the RAM-enable write
of the block's variant. -/
def Obligations.SavedRamSurvivesPowerCycle : Prop :=
  ∀ (s : State) (b : Block) (i : Instr) (a : Addr) (d : Byte) (arg arg' : HostArgs),
    s.block = some b → b.wf = true → b.params.hasBattery = true → d.toNat % 16 ≠ 10 →
    i = .m1RamgWr a d ∨ i = .m2RamgWr a d ∨ i = .m3RamgWr a d ∨ i = .m5RamgWr a d →
    i.inForce b.ctx = true → arg.ioOk = true → arg'.ioOk = true → arg'.store = .asItStands →
    arg'.config.inRange = true → resolveConfig arg'.config = .ok b.params →
    ∃ s1 s2 s3 s4 b4, exec i s = .next s1 ∧ exec .flush { s1 with args := arg } = .next s2 ∧
      exec .powerOff s2 = .next s3 ∧ exec .powerOn { s3 with args := arg' } = .next s4 ∧ s4.block = some b4 ∧
      b4.ram = b.ram

/-! ## Configuration -/

/-- The tables: cartridge type (R345, D25; R346, D39), ROM size (R348, D26), RAM size (R349, D26), the bank count that
results (R350, R351, D27), the header's colour flag (R344) and the colour mode (R354, D28). -/
def Obligations.ConfigurationTables : Prop :=
  ([0x00, 0x01, 0x02, 0x03, 0x05, 0x06, 0x08, 0x09, 0x0F, 0x10].map (fun c => cartType (BitVec.ofNat 8 c)) =
    [some ⟨.rom, false, false⟩, some ⟨.mbc1, false, false⟩, some ⟨.mbc1, true, false⟩, some ⟨.mbc1, true, true⟩,
     some ⟨.mbc2, true, false⟩, some ⟨.mbc2, true, true⟩, some ⟨.rom, true, false⟩, some ⟨.rom, true, true⟩,
     some ⟨.mbc3, false, true⟩, some ⟨.mbc3, true, true⟩]) ∧
  ([0x11, 0x12, 0x13, 0x19, 0x1A, 0x1B, 0x1C, 0x1D, 0x1E].map (fun c => cartType (BitVec.ofNat 8 c)) =
    [some ⟨.mbc3, false, false⟩, some ⟨.mbc3, true, false⟩, some ⟨.mbc3, true, true⟩, some ⟨.mbc5, false, false⟩,
     some ⟨.mbc5, true, false⟩, some ⟨.mbc5, true, true⟩, some ⟨.mbc5, false, false⟩, some ⟨.mbc5, true, false⟩,
     some ⟨.mbc5, true, true⟩]) ∧
  (∀ c : Byte, c.toNat = 0x04 ∨ c.toNat = 0x07 ∨ (0x0A ≤ c.toNat ∧ c.toNat ≤ 0x0E) ∨
    (0x14 ≤ c.toNat ∧ c.toNat ≤ 0x18) ∨ 0x1F ≤ c.toNat → cartType c = none) ∧
  (∀ c : Byte, c.toNat ≤ 8 → romBanksOf c = some (2 * 2 ^ c.toNat)) ∧ (∀ c : Byte, 8 < c.toNat → romBanksOf c = none) ∧
  rawRamBanksOf 0x00#8 = some 0 ∧ rawRamBanksOf 0x01#8 = some 1 ∧ rawRamBanksOf 0x02#8 = some 1 ∧
  rawRamBanksOf 0x03#8 = some 4 ∧ rawRamBanksOf 0x04#8 = some 16 ∧ rawRamBanksOf 0x05#8 = some 8 ∧
  (∀ c : Byte, 5 < c.toNat → rawRamBanksOf c = none) ∧
  (∀ (t : CartType) (raw : Nat), resolveRamBanks t raw =
    if t.variant = .mbc2 then 1 else if t.declaresRam = true ∧ raw = 0 then 1 else raw) ∧
  (∀ v : Byte, cgbFlagOf v = if v = 0x80#8 then .universal else if v = 0xC0#8 then .cgbOnly else .dmgOnly) ∧
  (∀ f, colourMode .forceCgb f = true) ∧
  colourMode .automatic .dmgOnly = false ∧ colourMode .forceDmg .dmgOnly = false ∧
  colourMode .automatic .cgbOnly = true ∧ colourMode .forceDmg .cgbOnly = true ∧
  colourMode .automatic .universal = true ∧ colourMode .forceDmg .universal = false

/-- R355, R160, R352, R353, R356: a header whose type, ROM-size and RAM-size codes are in the tables, on an image of the
length they give, yields the parameters of the tables; and the end-to-end vector of R355. -/
def Obligations.HeaderGivesParameters : Prop :=
  (∀ (rom dmg cgb : Buf) (o : ColourOverride) (e : Env) (t : CartType) (n raw : Nat) (colour : Bool),
    cartType (rom.at 0x0147) = some t → romBanksOf (rom.at 0x0148) = some n →
    rawRamBanksOf (rom.at 0x0149) = some raw → rom.size = n * 0x4000 →
    colour = colourMode o (cgbFlagOf (rom.at 0x0143)) →
    resolveConfig (.header rom o dmg cgb e) = .ok
      { rom := rom, variant := t.variant, romBanks := n, ramBanks := resolveRamBanks t raw, hasBattery := t.battery,
        cgb := colour, boot := if colour then cgb else dmg, openBus := e.openBus, ramFill := e.ramFill,
        tickHz := e.tickHz, latchPolicy := e.latchPolicy }) ∧
  cartType 0x03#8 = some { variant := .mbc1, declaresRam := true, battery := true } ∧
  romBanksOf 0x02#8 = some 8 ∧
  rawRamBanksOf 0x03#8 = some 4 ∧ resolveRamBanks { variant := .mbc1, declaresRam := true, battery := true } 4 = 4

/-! ## The whole machine -/

/-- R68: a read transaction changes nothing but what it delivers, and it delivers a byte. -/
def Obligations.ReadsChangeOnlyTheResult : Prop :=
  ∀ (i : Instr) (s t : State), i.isRead = true → exec i s = .next t → ∃ v, t = { s with result := .byte v }

/-- R34, R101, R73: a bus transaction neither changes the store, the parameters, the waiting operations nor the time, nor
depends on the store. -/
def Obligations.BusLeavesStoreAndParameters : Prop :=
  ∀ (i : Instr) (s t : State), i.isBus = true → exec i s = .next t →
    t.file = s.file ∧ t.pending = s.pending ∧ t.now = s.now ∧ t.args = s.args ∧ t.freeCount = s.freeCount ∧
    (∃ b b', s.block = some b ∧ t.block = some b' ∧ b'.params = b.params) ∧
    ∀ f : Option Buf, exec i { s with file := f } = .next { t with file := f }

/-- R69: a RAM-window write row changes exactly the RAM byte that `Block.stored` names, by the expression of its meaning
(ROM: `ramSlice a`; MBC1: `ramOffset ramBankSel a`; MBC2: `mbc2Slice a`, low nibble; MBC3: `ramOffset sel a`; MBC5:
`ramOffset ramBank a`), where the window shows RAM; every other bus transaction, and a RAM-window write where it does
not, leaves all of RAM. -/
def Obligations.OnlyRamWritesChangeRam : Prop :=
  ∀ (i : Instr) (s t : State) (b b' : Block), i.isBus = true → s.block = some b → b.ram.wf = true →
    exec i s = .next t → t.block = some b' →
    (∀ j v, b.stored i = some (j, v) → i.isRamWrite = true ∧ b.ram.Updated j v b'.ram) ∧
    (b.stored i = none → b'.ram = b.ram)

/-- THE INVARIANT. A step from a well-formed state leads to a well-formed state: the block (if any) has the registers of
its variant with `bank1` and `romBank` never 0 where R25 to R27 say so, RAM_SIZE bytes of RAM (R29), the battery that
HAS_BATTERY calls for with buffers of their lengths (R33), parameters in the ranges of R7; and every byte array is
canonical. -/
def Obligations.StepKeepsWellFormed : Prop :=
  ∀ s t : State, s.wf = true → step s = .next t → t.wf = true

/-- The state after reset is well formed. -/
def Obligations.ResetIsWellFormed : Prop := State.reset.wf = true

/-- From a well-formed state no step stops the machine with a fault (the faults the spec describes are reports, after which
it goes on: R381, R382), and while a block exists every one of the 2^25 transaction words has an outcome (R100): the step
that takes it completes. -/
def Obligations.EveryTransactionCompletes : Prop :=
  ∀ s : State, s.wf = true → Safe (step s) ∧
    ∀ (b : Block) (n : Nat) (w : TWord) (q : List Request), s.block = some b →
      s.pending = { now := n, op := .bus w } :: q → Completes (step s)
end

