-- ==== Sys2Proof/Laws/Memory.lean ====
section
/-! SUPPORT. The laws of byte arrays: what each operation reads as, and that each keeps the canonical form. -/

namespace Sys2Proof
namespace Machine

/-! ### Cells -/

theorem cellsWf_cons {n lo k : Nat} {x : Byte} {t : List Host.Cell} :
    cellsWf n lo ((k, x) :: t) = true ↔ lo ≤ k ∧ k < n ∧ x ≠ 0 ∧ cellsWf n (k + 1) t = true := by
  simp [cellsWf, and_assoc]

theorem cellsWf_mono {n m lo lo' : Nat} {c : List Host.Cell} (h : cellsWf n lo c = true) (hl : lo' ≤ lo) (hn : n ≤ m) :
    cellsWf m lo' c = true := by
  induction c generalizing lo lo' with
  | nil => rfl
  | cons p t ih =>
    obtain ⟨k, x⟩ := p
    rw [cellsWf_cons] at h ⊢
    exact ⟨by omega, by omega, h.2.2.1, ih h.2.2.2 le_rfl⟩

/-- Below the lowest listed address nothing is listed. -/
theorem cellsGet_below {n lo i : Nat} {c : List Host.Cell} (h : cellsWf n lo c = true) (hi : i < lo) :
    cellsGet c i = 0 := by
  induction c generalizing lo with
  | nil => rfl
  | cons p t ih =>
    obtain ⟨k, x⟩ := p
    rw [cellsWf_cons] at h
    rw [cellsGet, if_neg (by omega)]
    exact ih h.2.2.2 (by omega)

/-- From the size on nothing is listed. -/
theorem cellsGet_beyond {n lo i : Nat} {c : List Host.Cell} (h : cellsWf n lo c = true) (hi : n ≤ i) :
    cellsGet c i = 0 := by
  induction c generalizing lo with
  | nil => rfl
  | cons p t ih =>
    obtain ⟨k, x⟩ := p
    rw [cellsWf_cons] at h
    rw [cellsGet, if_neg (by omega)]
    exact ih h.2.2.2

/-- Reading after a write: the byte written at its address, the old byte at every other. -/
theorem cellsGet_cellsSet {n lo i j : Nat} {v : Byte} {c : List Host.Cell} (h : cellsWf n lo c = true) :
    cellsGet (cellsSet c i v) j = if j = i then v else cellsGet c j := by
  induction c generalizing lo with
  | nil =>
    unfold cellsSet
    by_cases hv : v = 0
    · rw [if_pos hv]
      split_ifs with hj
      · exact hv.symm
      · rfl
    · rw [if_neg hv]
      by_cases hj : j = i
      · rw [if_pos hj, cellsGet, if_pos hj.symm]
      · rw [if_neg hj]; simp [cellsGet, Ne.symm hj]
  | cons p t ih =>
    obtain ⟨k, x⟩ := p
    rw [cellsWf_cons] at h
    have below : ∀ m, m ≤ k → cellsGet t m = 0 := fun m hm => cellsGet_below h.2.2.2 (by omega)
    unfold cellsSet
    by_cases hlt : i < k
    · rw [if_pos hlt]
      by_cases hv : v = 0
      · rw [if_pos hv]
        split_ifs with hj
        · rw [cellsGet, if_neg (by omega), hj, hv]; exact below i (by omega)
        · rfl
      · rw [if_neg hv, cellsGet]
        by_cases hj : j = i
        · rw [if_pos hj, if_pos hj.symm]
        · rw [if_neg hj, if_neg (Ne.symm hj)]
    · rw [if_neg hlt]
      by_cases hik : i = k
      · subst hik
        rw [if_pos rfl]
        by_cases hv : v = 0
        · rw [if_pos hv]
          split_ifs with hj
          · rw [hj, hv]; exact below i le_rfl
          · rw [cellsGet, if_neg (Ne.symm hj)]
        · rw [if_neg hv, cellsGet, cellsGet]
          by_cases hj : i = j
          · simp [hj]
          · simp [hj, Ne.symm hj]
      · rw [if_neg hik, cellsGet, cellsGet]
        by_cases hkj : k = j
        · rw [if_pos hkj, if_neg (by omega), if_pos hkj]
        · rw [if_neg hkj, if_neg hkj]
          exact ih h.2.2.2

/-- A write keeps the canonical form. -/
theorem cellsWf_cellsSet {n lo i : Nat} {v : Byte} {c : List Host.Cell} (h : cellsWf n lo c = true) (hlo : lo ≤ i)
    (hi : i < n) : cellsWf n lo (cellsSet c i v) = true := by
  induction c generalizing lo with
  | nil =>
    unfold cellsSet
    split_ifs with hv
    · rfl
    · exact cellsWf_cons.2 ⟨hlo, hi, hv, rfl⟩
  | cons p t ih =>
    obtain ⟨k, x⟩ := p
    have h0 := h
    rw [cellsWf_cons] at h
    unfold cellsSet
    split_ifs with hlt hv hik hv
    · exact h0
    · exact cellsWf_cons.2 ⟨hlo, hi, hv, cellsWf_cons.2 ⟨by omega, h.2⟩⟩
    · exact cellsWf_mono h.2.2.2 (by omega) le_rfl
    · exact cellsWf_cons.2 ⟨hlo, hi, hv, cellsWf_mono h.2.2.2 (by omega) le_rfl⟩
    · exact cellsWf_cons.2 ⟨h.1, h.2.1, h.2.2.1, ih h.2.2.2 (by omega)⟩

/-- Canonical cells are determined by what they read as. -/
theorem cells_ext {n lo : Nat} {c d : List Host.Cell} (hc : cellsWf n lo c = true) (hd : cellsWf n lo d = true)
    (h : ∀ i, cellsGet c i = cellsGet d i) : c = d := by
  induction c generalizing lo d with
  | nil =>
    cases d with
    | nil => rfl
    | cons p t =>
      obtain ⟨k, x⟩ := p
      have := h k
      rw [cellsWf_cons] at hd
      simp [cellsGet] at this
      exact absurd this.symm hd.2.2.1
  | cons p t ih =>
    obtain ⟨k, x⟩ := p
    rw [cellsWf_cons] at hc
    cases d with
    | nil =>
      have := h k
      simp [cellsGet] at this
      exact absurd this hc.2.2.1
    | cons q u =>
      obtain ⟨l, y⟩ := q
      rw [cellsWf_cons] at hd
      have hkl : k = l := by
        rcases Nat.lt_trichotomy k l with hlt | heq | hgt
        · have := h k
          rw [cellsGet, if_pos rfl, cellsGet, if_neg (by omega), cellsGet_below hd.2.2.2 (by omega)] at this
          exact absurd this hc.2.2.1
        · exact heq
        · have := h l
          rw [cellsGet, if_neg (by omega), cellsGet_below hc.2.2.2 (by omega), cellsGet, if_pos rfl] at this
          exact absurd this.symm hd.2.2.1
      subst hkl
      have hxy : x = y := by simpa [cellsGet] using h k
      subst hxy
      have : t = u := by
        refine ih hc.2.2.2 hd.2.2.2 fun i => ?_
        by_cases hik : k = i
        · subst hik
          rw [cellsGet_below hc.2.2.2 (Nat.lt_succ_self k), cellsGet_below hd.2.2.2 (Nat.lt_succ_self k)]
        · simpa [cellsGet, hik] using h i
      rw [this]

/-! ### Arrays -/

/-- Reading within the array gives its byte. -/
theorem Buf.get_of_lt {b : Buf} {i : Nat} (h : i < b.size) : b.get i = some (b.at i) := by rw [Buf.get, if_pos h]

/-- Reading beyond it gives nothing. -/
theorem Buf.get_of_ge {b : Buf} {i : Nat} (h : b.size ≤ i) : b.get i = none := by rw [Buf.get, if_neg (by omega)]

/-- Canonical arrays that read alike are equal. -/
theorem Buf.ext_get {a b : Buf} (ha : a.wf = true) (hb : b.wf = true) (hs : a.size = b.size)
    (h : ∀ i, i < a.size → a.at i = b.at i) : a = b := by
  obtain ⟨n, c⟩ := a
  obtain ⟨m, d⟩ := b
  simp only at hs
  subst hs
  simp only [Buf.wf, Buf.at] at ha hb h
  congr
  refine cells_ext ha hb fun i => ?_
  by_cases hi : i < n
  · exact h i hi
  · rw [cellsGet_beyond ha (by omega), cellsGet_beyond hb (by omega)]

/-- A write within a canonical array succeeds, keeps the size and the canonical form, and changes that byte only. -/
theorem Buf.set_spec {b : Buf} {i : Nat} {v : Byte} (hw : b.wf = true) (hi : i < b.size) :
    ∃ b', b.set i v = some b' ∧ b'.size = b.size ∧ b'.wf = true ∧
      ∀ j, b'.get j = if j = i then some v else b.get j := by
  refine ⟨{ b with cells := cellsSet b.cells i v }, by rw [Buf.set, if_pos hi], rfl,
    cellsWf_cellsSet hw (Nat.zero_le i) hi, fun j => ?_⟩
  simp only [Buf.get, Buf.at]
  by_cases hj : j < b.size
  · simp only [hj, if_true, cellsGet_cellsSet hw]
    split_ifs <;> rfl
  · rw [if_neg hj, if_neg hj, if_neg (by omega)]

/-- What a write that succeeds leaves. -/
theorem Buf.set_some {b b' : Buf} {i : Nat} {v : Byte} (h : b.set i v = some b') (hw : b.wf = true) :
    i < b.size ∧ b'.size = b.size ∧ b'.wf = true := by
  unfold Buf.set at h
  split_ifs at h with hi
  obtain rfl := Option.some.inj h
  exact ⟨hi, rfl, cellsWf_cellsSet hw (Nat.zero_le i) hi⟩

@[simp] theorem Buf.zeros_size (n : Nat) : (Buf.zeros n).size = n := rfl
@[simp] theorem Buf.zeros_at (n i : Nat) : (Buf.zeros n).at i = 0 := rfl
@[simp] theorem Buf.zeros_wf (n : Nat) : (Buf.zeros n).wf = true := rfl
@[simp] theorem Buf.replicate_size (n : Nat) (v : Byte) : (Buf.replicate n v).size = n := rfl
@[simp] theorem Buf.take_size (b : Buf) (n : Nat) : (b.take n).size = min n b.size := rfl
@[simp] theorem Buf.drop_size (b : Buf) (n : Nat) : (b.drop n).size = b.size - n := rfl
@[simp] theorem Buf.append_size (a b : Buf) : (a.append b).size = a.size + b.size := rfl
@[simp] theorem Buf.ofBytes_size (l : List Byte) : (Buf.ofBytes l).size = l.length := rfl

/-! #### replicate -/

theorem cellsWf_rangeMap {n lo k : Nat} {v : Byte} (hv : v ≠ 0) (h : lo + k ≤ n) :
    cellsWf n lo ((List.range' lo k).map fun i => (i, v)) = true := by
  induction k generalizing lo with
  | zero => rfl
  | succ k ih =>
    rw [List.range'_succ, List.map_cons]
    exact cellsWf_cons.2 ⟨le_rfl, by omega, hv, ih (by omega)⟩

theorem cellsGet_rangeMap {lo k i : Nat} {v : Byte} :
    cellsGet ((List.range' lo k).map fun i => (i, v)) i = if lo ≤ i ∧ i < lo + k then v else 0 := by
  induction k generalizing lo with
  | zero => rw [if_neg (by omega)]; rfl
  | succ k ih =>
    rw [List.range'_succ, List.map_cons, cellsGet]
    by_cases h : lo = i
    · rw [if_pos h, if_pos (by omega)]
    · rw [if_neg h, ih]
      split_ifs <;> first | rfl | omega

theorem Buf.replicate_wf (n : Nat) (v : Byte) : (Buf.replicate n v).wf = true := by
  unfold Buf.replicate Buf.wf
  split_ifs with hv
  · rfl
  · rw [List.range_eq_range']
    exact cellsWf_rangeMap hv (by simp)

theorem Buf.replicate_at {n i : Nat} {v : Byte} (hi : i < n) : (Buf.replicate n v).at i = v := by
  unfold Buf.replicate Buf.at
  dsimp only
  split_ifs with hv
  · rw [hv]; rfl
  · rw [List.range_eq_range', cellsGet_rangeMap, if_pos (by omega)]

/-! #### take and drop -/

theorem cellsGet_filter {n i : Nat} {c : List Host.Cell} :
    cellsGet (c.filter fun p => decide (p.1 < n)) i = if i < n then cellsGet c i else 0 := by
  induction c with
  | nil => simp [cellsGet]
  | cons p t ih =>
    obtain ⟨k, x⟩ := p
    rw [List.filter_cons]
    by_cases hk : k < n
    · rw [if_pos (by simpa using hk), cellsGet, cellsGet, ih]
      by_cases hki : k = i
      · simp [hki, hki ▸ hk]
      · simp [hki]
    · rw [if_neg (by simpa using hk), ih]
      split_ifs with hi
      · rw [cellsGet, if_neg (by omega)]
      · rfl

theorem cellsWf_filter {n m lo : Nat} {c : List Host.Cell} (h : cellsWf m lo c = true) :
    cellsWf (min n m) lo (c.filter fun p => decide (p.1 < n)) = true := by
  induction c generalizing lo with
  | nil => rfl
  | cons p t ih =>
    obtain ⟨k, x⟩ := p
    rw [cellsWf_cons] at h
    rw [List.filter_cons]
    split_ifs with hk
    · have : k < n := by simpa using hk
      exact cellsWf_cons.2 ⟨h.1, by omega, h.2.2.1, ih h.2.2.2⟩
    · exact cellsWf_mono (ih h.2.2.2) (by omega) le_rfl

theorem Buf.take_wf {b : Buf} (n : Nat) (h : b.wf = true) : (b.take n).wf = true := cellsWf_filter h

theorem Buf.take_at {b : Buf} {n i : Nat} (hi : i < n) : (b.take n).at i = b.at i := by
  unfold Buf.take Buf.at
  dsimp only
  rw [cellsGet_filter, if_pos hi]

theorem cellsGet_cellsDrop {n i : Nat} {c : List Host.Cell} : cellsGet (cellsDrop n c) i = cellsGet c (n + i) := by
  induction c with
  | nil => rfl
  | cons p t ih =>
    obtain ⟨k, x⟩ := p
    rw [cellsDrop]
    split_ifs with hk
    · rw [cellsGet, cellsGet, ih]
      by_cases h : k - n = i
      · rw [if_pos h, if_pos (by omega)]
      · rw [if_neg h, if_neg (by omega)]
    · rw [ih, cellsGet, if_neg (by omega)]

theorem cellsWf_cellsDrop {n m lo : Nat} {c : List Host.Cell} (h : cellsWf m lo c = true) :
    cellsWf (m - n) (lo - n) (cellsDrop n c) = true := by
  induction c generalizing lo with
  | nil => rfl
  | cons p t ih =>
    obtain ⟨k, x⟩ := p
    rw [cellsWf_cons] at h
    rw [cellsDrop]
    split_ifs with hk
    · refine cellsWf_cons.2 ⟨by omega, by omega, h.2.2.1, cellsWf_mono (ih h.2.2.2) (by omega) le_rfl⟩
    · exact cellsWf_mono (ih h.2.2.2) (by omega) le_rfl

theorem Buf.drop_wf {b : Buf} (n : Nat) (h : b.wf = true) : (b.drop n).wf = true := by
  simpa [Buf.wf, Buf.drop] using cellsWf_cellsDrop (n := n) h

theorem Buf.drop_at (b : Buf) (n i : Nat) : (b.drop n).at i = b.at (n + i) := cellsGet_cellsDrop

/-! #### append -/

theorem cellsGet_append_left {n i lo : Nat} {c d : List Host.Cell} (hc : cellsWf n lo c = true) :
    cellsGet (c ++ d) i = if cellsGet c i = 0 then cellsGet d i else cellsGet c i := by
  induction c generalizing lo with
  | nil => simp [cellsGet]
  | cons p t ih =>
    obtain ⟨k, x⟩ := p
    rw [cellsWf_cons] at hc
    rw [List.cons_append, cellsGet, cellsGet]
    by_cases h : k = i
    · rw [if_pos h, if_pos h, if_neg hc.2.2.1]
    · rw [if_neg h, if_neg h, ih hc.2.2.2]

theorem cellsGet_shift {n i : Nat} {c : List Host.Cell} :
    cellsGet (c.map fun p => (n + p.1, p.2)) i = if n ≤ i then cellsGet c (i - n) else 0 := by
  induction c with
  | nil => simp [cellsGet]
  | cons p t ih =>
    obtain ⟨k, x⟩ := p
    rw [List.map_cons, cellsGet, ih, cellsGet]
    split_ifs <;> first | rfl | omega

theorem cellsWf_shift {n m lo : Nat} {c : List Host.Cell} (h : cellsWf m lo c = true) :
    cellsWf (n + m) (n + lo) (c.map fun p => (n + p.1, p.2)) = true := by
  induction c generalizing lo with
  | nil => rfl
  | cons p t ih =>
    obtain ⟨k, x⟩ := p
    rw [cellsWf_cons] at h
    rw [List.map_cons]
    exact cellsWf_cons.2 ⟨by omega, by omega, h.2.2.1, ih h.2.2.2⟩

theorem cellsWf_append {n m lo : Nat} {c d : List Host.Cell} (hc : cellsWf n lo c = true) (hd : cellsWf m n d = true)
    (hlo : lo ≤ n) (hnm : n ≤ m) : cellsWf m lo (c ++ d) = true := by
  induction c generalizing lo with
  | nil => exact cellsWf_mono hd hlo le_rfl
  | cons p t ih =>
    obtain ⟨k, x⟩ := p
    rw [cellsWf_cons] at hc
    exact cellsWf_cons.2 ⟨hc.1, by omega, hc.2.2.1, ih hc.2.2.2 (by omega)⟩

theorem Buf.append_wf {a b : Buf} (ha : a.wf = true) (hb : b.wf = true) : (a.append b).wf = true :=
  cellsWf_append ha (cellsWf_shift hb) (Nat.zero_le _) (Nat.le_add_right _ _)

/-- The bytes of `a ++ b`. -/
theorem Buf.append_at {a b : Buf} (ha : a.wf = true) (i : Nat) :
    (a.append b).at i = if i < a.size then a.at i else b.at (i - a.size) := by
  unfold Buf.append Buf.at
  dsimp only
  rw [cellsGet_append_left ha, cellsGet_shift]
  by_cases hi : i < a.size
  · by_cases h0 : cellsGet a.cells i = 0
    · simp [hi, h0]
    · rw [if_neg h0, if_pos hi]
  · have : cellsGet a.cells i = 0 := cellsGet_beyond ha (by omega)
    simp [hi, this, Nat.not_lt.1 hi]

/-! #### ofBytes -/

theorem cellsWf_cellsOf {lo : Nat} (l : List Byte) : cellsWf (lo + l.length) lo (cellsOf lo l) = true := by
  induction l generalizing lo with
  | nil => rfl
  | cons x t ih =>
    have h := ih (lo := lo + 1)
    rw [cellsOf]
    split_ifs with hx
    · exact cellsWf_mono h (by omega) (by simp only [List.length_cons]; omega)
    · exact cellsWf_cons.2 ⟨le_rfl, by simp, hx, cellsWf_mono h le_rfl (by simp only [List.length_cons]; omega)⟩

theorem cellsGet_cellsOf {lo i : Nat} (l : List Byte) :
    cellsGet (cellsOf lo l) i = if lo ≤ i then l.getD (i - lo) 0 else 0 := by
  induction l generalizing lo with
  | nil => simp [cellsOf, cellsGet]
  | cons x t ih =>
    rw [cellsOf]
    by_cases hx : x = 0
    · rw [if_pos hx, ih]
      rcases Nat.lt_trichotomy lo i with h | h | h
      · rw [if_pos (by omega), if_pos (by omega), show i - lo = (i - (lo + 1)) + 1 by omega]; simp
      · subst h; simp [hx]
      · rw [if_neg (by omega), if_neg (by omega)]
    · rw [if_neg hx, cellsGet, ih]
      rcases Nat.lt_trichotomy lo i with h | h | h
      · rw [if_neg (by omega), if_pos (by omega), if_pos (by omega), show i - lo = (i - (lo + 1)) + 1 by omega]; simp
      · subst h; simp
      · rw [if_neg (by omega), if_neg (by omega), if_neg (by omega)]

theorem Buf.ofBytes_wf (l : List Byte) : (Buf.ofBytes l).wf = true := by
  simpa [Buf.wf, Buf.ofBytes] using cellsWf_cellsOf (lo := 0) l

theorem Buf.ofBytes_at (l : List Byte) (i : Nat) : (Buf.ofBytes l).at i = l.getD i 0 := by
  simpa [Buf.at, Buf.ofBytes] using cellsGet_cellsOf (lo := 0) (i := i) l

end Machine
end Sys2Proof
end

