-- ==== Sys2Proof/Laws/State.lean ====
section
/-! SUPPORT. One lemma per field per named update, true by rfl: later proofs never unfold an update. -/

namespace Sys2Proof
namespace Machine

/-! ### State -/

@[simp] theorem State.accept_block (s : State) (r : Request) (q : List Request) : (s.accept r q).block = s.block := rfl
@[simp] theorem State.accept_file (s : State) (r : Request) (q : List Request) : (s.accept r q).file = s.file := rfl
@[simp] theorem State.accept_pending (s : State) (r : Request) (q : List Request) : (s.accept r q).pending = q := rfl
@[simp] theorem State.accept_now (s : State) (r : Request) (q : List Request) : (s.accept r q).now = r.now := rfl
@[simp] theorem State.accept_result (s : State) (r : Request) (q : List Request) :
    (s.accept r q).result = s.result := rfl
@[simp] theorem State.accept_freeCount (s : State) (r : Request) (q : List Request) :
    (s.accept r q).freeCount = s.freeCount := rfl

/-! ### Block -/

@[simp] theorem Block.restored_params (b : Block) (v : CartSnap) : (b.restored v).params = b.params := rfl
@[simp] theorem Block.restored_bootOff (b : Block) (v : CartSnap) : (b.restored v).bootOff = v.bootOff := rfl
@[simp] theorem Block.restored_ctrl (b : Block) (v : CartSnap) : (b.restored v).ctrl = v.ctrl := rfl
@[simp] theorem Block.restored_ram (b : Block) (v : CartSnap) : (b.restored v).ram = v.ram := rfl
@[simp] theorem Block.restored_bat (b : Block) (v : CartSnap) : (b.restored v).bat = v.bat := rfl

@[simp] theorem Block.snap_bootOff (b : Block) : b.snap.bootOff = b.bootOff := rfl
@[simp] theorem Block.snap_ctrl (b : Block) : b.snap.ctrl = b.ctrl := rfl
@[simp] theorem Block.snap_ram (b : Block) : b.snap.ram = b.ram := rfl
@[simp] theorem Block.snap_bat (b : Block) : b.snap.bat = b.bat := rfl

@[simp] theorem Block.beforeLoad_params (p : Params) (n : Nat) : (Block.beforeLoad p n).params = p := rfl
@[simp] theorem Block.beforeLoad_bootOff (p : Params) (n : Nat) : (Block.beforeLoad p n).bootOff = false := rfl
@[simp] theorem Block.beforeLoad_ctrl (p : Params) (n : Nat) :
    (Block.beforeLoad p n).ctrl = Ctrl.powerOn p.variant n := rfl
@[simp] theorem Block.beforeLoad_ram (p : Params) (n : Nat) :
    (Block.beforeLoad p n).ram = Buf.replicate p.ramSize p.ramFill := rfl
@[simp] theorem Block.beforeLoad_bat (p : Params) (n : Nat) : (Block.beforeLoad p n).bat = .null := rfl

/-- The save trigger touches the battery only. -/
@[simp] theorem Block.saveTrigger_params (b : Block) (n : Nat) : (b.saveTrigger n).params = b.params := by
  unfold Block.saveTrigger; cases b.bat <;> rfl
@[simp] theorem Block.saveTrigger_bootOff (b : Block) (n : Nat) : (b.saveTrigger n).bootOff = b.bootOff := by
  unfold Block.saveTrigger; cases b.bat <;> rfl
@[simp] theorem Block.saveTrigger_ctrl (b : Block) (n : Nat) : (b.saveTrigger n).ctrl = b.ctrl := by
  unfold Block.saveTrigger; cases b.bat <;> rfl
@[simp] theorem Block.saveTrigger_ram (b : Block) (n : Nat) : (b.saveTrigger n).ram = b.ram := by
  unfold Block.saveTrigger; cases b.bat <;> rfl

/-- The end of a RAM-enable write touches the battery only. -/
@[simp] theorem Block.afterEnableWrite_params (b : Block) (e : Bool) (n : Nat) :
    (b.afterEnableWrite e n).params = b.params := by cases e <;> simp [Block.afterEnableWrite]
@[simp] theorem Block.afterEnableWrite_bootOff (b : Block) (e : Bool) (n : Nat) :
    (b.afterEnableWrite e n).bootOff = b.bootOff := by cases e <;> simp [Block.afterEnableWrite]
@[simp] theorem Block.afterEnableWrite_ctrl (b : Block) (e : Bool) (n : Nat) :
    (b.afterEnableWrite e n).ctrl = b.ctrl := by cases e <;> simp [Block.afterEnableWrite]
@[simp] theorem Block.afterEnableWrite_ram (b : Block) (e : Bool) (n : Nat) :
    (b.afterEnableWrite e n).ram = b.ram := by cases e <;> simp [Block.afterEnableWrite]

/-! ### Controller -/

@[simp] theorem Ctrl.variant_rom : Ctrl.rom.variant = .rom := rfl
@[simp] theorem Ctrl.variant_mbc1 (r : Mbc1) : (Ctrl.mbc1 r).variant = .mbc1 := rfl
@[simp] theorem Ctrl.variant_mbc2 (r : Mbc2) : (Ctrl.mbc2 r).variant = .mbc2 := rfl
@[simp] theorem Ctrl.variant_mbc3 (r : Mbc3) (k : Rtc) : (Ctrl.mbc3 r k).variant = .mbc3 := rfl
@[simp] theorem Ctrl.variant_mbc5 (r : Mbc5) : (Ctrl.mbc5 r).variant = .mbc5 := rfl

@[simp] theorem Ctrl.powerOn_variant (v : Variant) (n : Nat) : (Ctrl.powerOn v n).variant = v := by cases v <;> rfl

/-! ### RTC -/

@[simp] theorem Rtc.latch_latchStart (k : Rtc) (n : Nat) : (k.latch n).latchStart = n := rfl
@[simp] theorem Rtc.latch_clockStart (k : Rtc) (n : Nat) : (k.latch n).clockStart = k.clockStart := rfl
@[simp] theorem Rtc.latch_offsetSec (k : Rtc) (n : Nat) : (k.latch n).offsetSec = k.offsetSec := rfl
@[simp] theorem Rtc.latch_halt (k : Rtc) (n : Nat) : (k.latch n).halt = k.halt := rfl

@[simp] theorem Rtc.unlatch_latchStart (k : Rtc) : k.unlatch.latchStart = 0 := rfl
@[simp] theorem Rtc.unlatch_clockStart (k : Rtc) : k.unlatch.clockStart = k.clockStart := rfl
@[simp] theorem Rtc.unlatch_offsetSec (k : Rtc) : k.unlatch.offsetSec = k.offsetSec := rfl
@[simp] theorem Rtc.unlatch_halt (k : Rtc) : k.unlatch.halt = k.halt := rfl
@[simp] theorem Rtc.unlatch_haltSeconds (k : Rtc) : k.unlatch.haltSeconds = k.haltSeconds := rfl
@[simp] theorem Rtc.unlatch_haltMinutes (k : Rtc) : k.unlatch.haltMinutes = k.haltMinutes := rfl
@[simp] theorem Rtc.unlatch_haltHours (k : Rtc) : k.unlatch.haltHours = k.haltHours := rfl
@[simp] theorem Rtc.unlatch_haltDays (k : Rtc) : k.unlatch.haltDays = k.haltDays := rfl

@[simp] theorem Rtc.enterHalt_halt (k : Rtc) (hz n : Nat) : (k.enterHalt hz n).halt = true := rfl
@[simp] theorem Rtc.enterHalt_latchStart (k : Rtc) (hz n : Nat) : (k.enterHalt hz n).latchStart = k.latchStart := rfl
@[simp] theorem Rtc.enterHalt_clockStart (k : Rtc) (hz n : Nat) : (k.enterHalt hz n).clockStart = k.clockStart := rfl
@[simp] theorem Rtc.enterHalt_offsetSec (k : Rtc) (hz n : Nat) : (k.enterHalt hz n).offsetSec = k.offsetSec := rfl
@[simp] theorem Rtc.enterHalt_haltSeconds (k : Rtc) (hz n : Nat) :
    (k.enterHalt hz n).haltSeconds = secondsOf (k.wallTime hz n) := rfl
@[simp] theorem Rtc.enterHalt_haltMinutes (k : Rtc) (hz n : Nat) :
    (k.enterHalt hz n).haltMinutes = minutesOf (k.wallTime hz n) := rfl
@[simp] theorem Rtc.enterHalt_haltHours (k : Rtc) (hz n : Nat) :
    (k.enterHalt hz n).haltHours = hoursOf (k.wallTime hz n) := rfl
@[simp] theorem Rtc.enterHalt_haltDays (k : Rtc) (hz n : Nat) :
    (k.enterHalt hz n).haltDays = daysOf (k.wallTime hz n) := rfl

@[simp] theorem Rtc.resume_halt (k : Rtc) (n : Nat) : (k.resume n).halt = false := rfl
@[simp] theorem Rtc.resume_latchStart (k : Rtc) (n : Nat) : (k.resume n).latchStart = k.latchStart := rfl
@[simp] theorem Rtc.resume_clockStart (k : Rtc) (n : Nat) : (k.resume n).clockStart = n := rfl
@[simp] theorem Rtc.resume_offsetSec (k : Rtc) (n : Nat) : (k.resume n).offsetSec = k.shadowSeconds := rfl

/-! ### Battery -/

@[simp] theorem FileBattery.flushed_dirty (m : FileBattery) : m.flushed.dirty = false := rfl
@[simp] theorem FileBattery.flushed_clockPresent (m : FileBattery) : m.flushed.clockPresent = false := rfl
@[simp] theorem FileBattery.flushed_bRam (m : FileBattery) : m.flushed.bRam = m.bRam := rfl
@[simp] theorem FileBattery.flushed_bClock (m : FileBattery) : m.flushed.bClock = m.bClock := rfl

@[simp] theorem FileBattery.save_bRam (m : FileBattery) (b : Block) (n : Nat) : (m.save b n).bRam = b.ram := by
  unfold FileBattery.save; split <;> rfl
@[simp] theorem FileBattery.save_dirty (m : FileBattery) (b : Block) (n : Nat) : (m.save b n).dirty = true := by
  unfold FileBattery.save; split <;> rfl

@[simp] theorem Battery.isFile_null : Battery.null.isFile = false := rfl
@[simp] theorem Battery.isFile_file (m : FileBattery) : (Battery.file m).isFile = true := rfl

end Machine
end Sys2Proof
end

