-- ==== Sys2Proof/Laws/Ops.lean ====
section
/-! SUPPORT. For each shared operation, once, everything it can do: what it answers where it answers a next state, and
that it keeps the block well formed. -/

namespace Sys2Proof
namespace Machine

/-! ### Which block and controller an operation runs on -/

theorem State.onBlock_some {s : State} {b : Block} (h : s.block = some b) (f : Block → Out) : s.onBlock f = f b := by
  unfold State.onBlock; rw [h]

theorem State.onBlock_next {s t : State} {f : Block → Out} (h : s.onBlock f = .next t) :
    ∃ b, s.block = some b ∧ f b = .next t := by
  unfold State.onBlock at h
  split at h
  · exact ⟨_, ‹_›, h⟩
  · cases h

theorem State.onRom_some {s : State} {b : Block} (h : s.block = some b) (hc : b.ctrl = .rom) (f : Block → Out) :
    s.onRom f = f b := by
  unfold State.onRom; rw [State.onBlock_some h]; simp only [hc]

theorem State.onRom_next {s t : State} {f : Block → Out} (h : s.onRom f = .next t) :
    ∃ b, s.block = some b ∧ b.ctrl = .rom ∧ f b = .next t := by
  obtain ⟨b, hb, h⟩ := State.onBlock_next h
  split at h
  · exact ⟨b, hb, ‹_›, h⟩
  · cases h

theorem State.onMbc1_some {s : State} {b : Block} {r : Mbc1} (h : s.block = some b) (hc : b.ctrl = .mbc1 r)
    (f : Block → Mbc1 → Out) : s.onMbc1 f = f b r := by
  unfold State.onMbc1; rw [State.onBlock_some h]; simp only [hc]

theorem State.onMbc1_next {s t : State} {f : Block → Mbc1 → Out} (h : s.onMbc1 f = .next t) :
    ∃ b r, s.block = some b ∧ b.ctrl = .mbc1 r ∧ f b r = .next t := by
  obtain ⟨b, hb, h⟩ := State.onBlock_next h
  split at h
  · exact ⟨b, _, hb, ‹_›, h⟩
  · cases h

theorem State.onMbc2_some {s : State} {b : Block} {r : Mbc2} (h : s.block = some b) (hc : b.ctrl = .mbc2 r)
    (f : Block → Mbc2 → Out) : s.onMbc2 f = f b r := by
  unfold State.onMbc2; rw [State.onBlock_some h]; simp only [hc]

theorem State.onMbc2_next {s t : State} {f : Block → Mbc2 → Out} (h : s.onMbc2 f = .next t) :
    ∃ b r, s.block = some b ∧ b.ctrl = .mbc2 r ∧ f b r = .next t := by
  obtain ⟨b, hb, h⟩ := State.onBlock_next h
  split at h
  · exact ⟨b, _, hb, ‹_›, h⟩
  · cases h

theorem State.onMbc3_some {s : State} {b : Block} {r : Mbc3} {k : Rtc} (h : s.block = some b)
    (hc : b.ctrl = .mbc3 r k) (f : Block → Mbc3 → Rtc → Out) : s.onMbc3 f = f b r k := by
  unfold State.onMbc3; rw [State.onBlock_some h]; simp only [hc]

theorem State.onMbc3_next {s t : State} {f : Block → Mbc3 → Rtc → Out} (h : s.onMbc3 f = .next t) :
    ∃ b r k, s.block = some b ∧ b.ctrl = .mbc3 r k ∧ f b r k = .next t := by
  obtain ⟨b, hb, h⟩ := State.onBlock_next h
  split at h
  · exact ⟨b, _, _, hb, ‹_›, h⟩
  · cases h

theorem State.onMbc5_some {s : State} {b : Block} {r : Mbc5} (h : s.block = some b) (hc : b.ctrl = .mbc5 r)
    (f : Block → Mbc5 → Out) : s.onMbc5 f = f b r := by
  unfold State.onMbc5; rw [State.onBlock_some h]; simp only [hc]

theorem State.onMbc5_next {s t : State} {f : Block → Mbc5 → Out} (h : s.onMbc5 f = .next t) :
    ∃ b r, s.block = some b ∧ b.ctrl = .mbc5 r ∧ f b r = .next t := by
  obtain ⟨b, hb, h⟩ := State.onBlock_next h
  split at h
  · exact ⟨b, _, hb, ‹_›, h⟩
  · cases h

theorem State.onWindow_some {s : State} {b : Block} {r : Mbc3} {k : Rtc} {t : Mbc3Target} (h : s.block = some b)
    (hc : b.ctrl = .mbc3 r k) (ht : mbc3Target r.ramEnable r.sel b.params.ramBanks = t) (f : Block → Mbc3 → Rtc → Out) :
    s.onWindow t f = f b r k := by
  unfold State.onWindow; rw [State.onMbc3_some h hc, if_pos ht]

theorem State.onWindow_next {s t : State} {w : Mbc3Target} {f : Block → Mbc3 → Rtc → Out}
    (h : s.onWindow w f = .next t) :
    ∃ b r k, s.block = some b ∧ b.ctrl = .mbc3 r k ∧ mbc3Target r.ramEnable r.sel b.params.ramBanks = w ∧
      f b r k = .next t := by
  obtain ⟨b, r, k, hb, hc, h⟩ := State.onMbc3_next h
  split at h
  · exact ⟨b, r, k, hb, hc, ‹_›, h⟩
  · cases h

/-! ### Reads and writes -/

theorem State.deliverFrom_some {s : State} {sp : Space} {x : Buf} {i : Nat} {v : Byte} (h : x.get i = some v) :
    s.deliverFrom sp x i = .next { s with result := .byte v } := by
  unfold State.deliverFrom; rw [h]; rfl

theorem State.deliverFrom_next {s t : State} {sp : Space} {x : Buf} {i : Nat} (h : s.deliverFrom sp x i = .next t) :
    ∃ v, x.get i = some v ∧ t = { s with result := .byte v } := by
  unfold State.deliverFrom at h
  split at h
  · cases h; exact ⟨_, ‹_›, rfl⟩
  · cases h

/-- A read within the array delivers its byte. -/
theorem State.deliverFrom_of_lt {s : State} {sp : Space} {x : Buf} {i : Nat} (h : i < x.size) :
    ∃ v, x.get i = some v ∧ s.deliverFrom sp x i = .next { s with result := .byte v } :=
  ⟨x.at i, Buf.get_of_lt h, State.deliverFrom_some (Buf.get_of_lt h)⟩

@[simp] theorem State.readWindow_true (s : State) (b : Block) (i : Nat) : s.readWindow b true i = s.readRam b i := rfl
@[simp] theorem State.readWindow_false (s : State) (b : Block) (i : Nat) :
    s.readWindow b false i = .next { s with result := .byte b.params.openBus } := rfl
@[simp] theorem State.writeWindow_true (s : State) (b : Block) (i : Nat) (v : Byte) :
    s.writeWindow b true i v = s.writeRam b i v := rfl
@[simp] theorem State.writeWindow_false (s : State) (b : Block) (i : Nat) (v : Byte) :
    s.writeWindow b false i v = .next { s with result := .done } := rfl

/-- When the RAM window shows RAM (R71). -/
theorem Params.ramShown_eq_true {p : Params} {e : Bool} : p.ramShown e = true ↔ e = true ∧ p.ramBanks ≠ 0 := by
  simp [Params.ramShown]

theorem Params.ramShown_eq_false {p : Params} {e : Bool} : p.ramShown e = false ↔ e = false ∨ p.ramBanks = 0 := by
  unfold Params.ramShown; cases e <;> simp

theorem State.readWindow_next {s t : State} {b : Block} {sh : Bool} {i : Nat} (h : s.readWindow b sh i = .next t) :
    ∃ v, t = { s with result := .byte v } := by
  unfold State.readWindow at h
  split at h
  · obtain ⟨v, -, rfl⟩ := State.deliverFrom_next h; exact ⟨v, rfl⟩
  · cases h; exact ⟨_, rfl⟩

theorem State.writeRam_next {s t : State} {b : Block} {i : Nat} {v : Byte} (h : s.writeRam b i v = .next t) :
    ∃ ram, b.ram.set i v = some ram ∧ t = { s with block := some { b with ram := ram }, result := .done } := by
  unfold State.writeRam at h
  split at h
  · cases h; exact ⟨_, ‹_›, rfl⟩
  · cases h

/-- A write within a canonical RAM stores that byte and nothing else. -/
theorem State.writeRam_of_lt {s : State} {b : Block} {i : Nat} {v : Byte} (hw : b.ram.wf = true) (h : i < b.ram.size) :
    ∃ ram, b.ram.Updated i v ram ∧ ram.wf = true ∧
      s.writeRam b i v = .next { s with block := some { b with ram := ram }, result := .done } := by
  obtain ⟨ram, h1, h2, h3, h4⟩ := Buf.set_spec (v := v) hw h
  refine ⟨ram, ⟨h, h2, h4⟩, h3, ?_⟩
  unfold State.writeRam; rw [h1]; rfl

theorem State.writeWindow_next {s t : State} {b : Block} {sh : Bool} {i : Nat} {v : Byte}
    (h : s.writeWindow b sh i v = .next t) :
    t = { s with result := .done } ∨
      ∃ ram, b.ram.set i v = some ram ∧ t = { s with block := some { b with ram := ram }, result := .done } := by
  unfold State.writeWindow at h
  split at h
  · exact .inr (State.writeRam_next h)
  · cases h; exact .inl rfl

/-! ### Offsets -/

@[simp] theorem romSlice_eq (a : Addr) : romSlice a = a.toNat % 0x4000 := by simp [romSlice]
@[simp] theorem ramSlice_eq (a : Addr) : ramSlice a = a.toNat % 0x2000 := by simp [ramSlice]
@[simp] theorem mbc2Slice_eq (a : Addr) : mbc2Slice a = a.toNat % 0x200 := by simp [mbc2Slice]
@[simp] theorem bootSlice_eq (a : Addr) : bootSlice a = a.toNat % 0x100 := by simp [bootSlice]

/-- A bank and an offset within it lie below the total. -/
theorem bank_offset_lt {n k sz o : Nat} (hn : 0 < n) (ho : o < sz) : k % n * sz + o < n * sz := by
  have h1 : k % n + 1 ≤ n := Nat.mod_lt k hn
  have h2 : (k % n + 1) * sz ≤ n * sz := Nat.mul_le_mul_right sz h1
  rw [Nat.add_mul] at h2
  omega

theorem Params.romOffset_lt (p : Params) (k : Nat) (a : Addr) (h : 0 < p.romBanks) : p.romOffset k a < p.romSize := by
  unfold Params.romOffset Params.romSize Config.romBankSize
  rw [romSlice_eq]
  exact bank_offset_lt h (Nat.mod_lt _ (by decide))

theorem Params.ramOffset_lt (p : Params) (k : Nat) (a : Addr) (h : 0 < p.ramBanks) : p.ramOffset k a < p.ramSize := by
  unfold Params.ramOffset Params.ramSize Config.ramBankSize
  rw [ramSlice_eq]
  exact bank_offset_lt h (Nat.mod_lt _ (by decide))

/-! ### What a well-formed block gives -/

theorem Params.wf_iff {p : Params} :
    p.wf = true ↔ p.inRange = true ∧ p.rom.size = p.romSize ∧ p.rom.wf = true ∧ p.boot.wf = true := by
  simp [Params.wf, and_assoc]

theorem Params.romBanks_pos {p : Params} (h : p.inRange = true) : 2 ≤ p.romBanks := by
  simp [Params.inRange] at h; omega

theorem Params.tickHz_pos {p : Params} (h : p.inRange = true) : 0 < p.tickHz := by
  simp [Params.inRange] at h; omega

theorem Params.boot_size {p : Params} (h : p.inRange = true) : p.boot.size = if p.cgb then 0x800 else 0x100 := by
  simp [Params.inRange] at h; exact h.1.2

theorem Params.mbc2_ramBanks {p : Params} (h : p.inRange = true) (hv : p.variant = .mbc2) : p.ramBanks = 1 := by
  simp [Params.inRange, hv] at h; exact h.1.1.2

theorem Battery.fits_iff {p : Params} {t : Battery} :
    t.fits p = true ↔ t.isFile = p.hasBattery ∧ t.lengthFault p = none ∧ t.canonical = true := by
  simp [Battery.fits, and_assoc]

/-- The battery's buffers have the lengths of R33. -/
theorem Battery.lengthFault_none {p : Params} {m : FileBattery} :
    (Battery.file m).lengthFault p = none ↔ m.bRam.size = p.ramSize ∧ m.bClock.size = 44 := by
  unfold Battery.lengthFault Config.clockBlockSize
  dsimp only
  split_ifs with h1 h2
  · simp [h1]
  · simp [h2]
  · simp only [not_not] at h1 h2; simp [h1, h2]

theorem Block.wf_iff {b : Block} :
    b.wf = true ↔ b.params.wf = true ∧ b.ctrl.variant = b.params.variant ∧ b.ctrl.legal = true ∧
      b.ram.size = b.params.ramSize ∧ b.ram.wf = true ∧ b.bat.fits b.params = true := by
  simp [Block.wf, and_assoc]

theorem State.wf_iff {s : State} :
    s.wf = true ↔ (∀ b, s.block = some b → b.wf = true) ∧ storeWf s.file = true ∧
      (∀ r ∈ s.pending, r.wf = true) ∧ s.args.wf = true ∧ s.result.wf = true := by
  unfold State.wf
  cases s.block <;> simp [and_assoc]

/-! ### Keeping it -/

/-- A block with another controller state of its variant, legal. -/
theorem Block.wf_ctrl {b : Block} {c : Ctrl} (h : b.wf = true) (hv : c.variant = b.ctrl.variant)
    (hl : c.legal = true) : ({ b with ctrl := c } : Block).wf = true := by
  rw [Block.wf_iff] at h ⊢
  exact ⟨h.1, hv.trans h.2.1, hl, h.2.2.2⟩

theorem Block.wf_bootOff {b : Block} (h : b.wf = true) (x : Bool) : ({ b with bootOff := x } : Block).wf = true := h

theorem Block.wf_ram {b : Block} {i : Nat} {v : Byte} {ram : Buf} (h : b.wf = true) (hs : b.ram.set i v = some ram) :
    ({ b with ram := ram } : Block).wf = true := by
  rw [Block.wf_iff] at h ⊢
  obtain ⟨-, h2, h3⟩ := Buf.set_some hs h.2.2.2.2.1
  exact ⟨h.1, h.2.1, h.2.2.1, h2.trans h.2.2.2.1, h3, h.2.2.2.2.2⟩

@[simp] theorem elementBytes_length (v : BitVec 32) : (elementBytes v).length = 4 := rfl

theorem clockBlock_size (v : List (BitVec 32)) : (clockBlock v).size = 4 * v.length := by
  unfold clockBlock
  rw [Buf.ofBytes_size]
  induction v with
  | nil => rfl
  | cons x t ih => rw [List.flatMap_cons, List.length_append, ih, elementBytes_length, List.length_cons]; omega

@[simp] theorem Rtc.serialize_length (k : Rtc) (hz n : Nat) : (k.serialize hz n).length = 11 := rfl

theorem clockBlock_wf (v : List (BitVec 32)) : (clockBlock v).wf = true := Buf.ofBytes_wf _

theorem Block.wf_saveTrigger {b : Block} (h : b.wf = true) (n : Nat) : (b.saveTrigger n).wf = true := by
  unfold Block.saveTrigger
  cases hb : b.bat with
  | null => exact h
  | file m =>
    have h0 := h
    rw [Block.wf_iff, hb, Battery.fits_iff, Battery.lengthFault_none] at h0
    simp only [Battery.canonical, Bool.and_eq_true] at h0
    rw [Block.wf_iff, Battery.fits_iff, Battery.lengthFault_none]
    refine ⟨h0.1, h0.2.1, h0.2.2.1, h0.2.2.2.1, h0.2.2.2.2.1, h0.2.2.2.2.2.1, ?_, ?_⟩
    · rw [FileBattery.save_bRam]
      refine ⟨h0.2.2.2.1, ?_⟩
      unfold FileBattery.save
      split
      · exact clockBlock_size _
      · exact h0.2.2.2.2.2.2.1.2
    · simp only [Battery.canonical, FileBattery.save_bRam, Bool.and_eq_true]
      refine ⟨h0.2.2.2.2.1, ?_⟩
      unfold FileBattery.save
      split
      · exact clockBlock_wf _
      · exact h0.2.2.2.2.2.2.2.2

theorem Block.wf_afterEnableWrite {b : Block} (h : b.wf = true) (e : Bool) (n : Nat) :
    (b.afterEnableWrite e n).wf = true := by
  unfold Block.afterEnableWrite
  split
  · exact h
  · exact Block.wf_saveTrigger h n

/-- The snapshot of a well-formed block is well formed. -/
theorem Block.wf_snap {b : Block} (h : b.wf = true) : b.snap.wf = true := by
  rw [Block.wf_iff, Battery.fits_iff] at h
  simp [CartSnap.wf, h]

/-- A snapshot that passes the checks of R324 gives a well-formed block. -/
theorem Block.wf_restored {b : Block} {v : CartSnap} (h : b.wf = true) (hv : v.wf = true)
    (hr : restoreFault b.params v = none) : (b.restored v).wf = true := by
  unfold restoreFault at hr
  split_ifs at hr with h1 h2 h3
  simp only [not_not] at h1 h2 h3
  simp only [CartSnap.wf, Bool.and_eq_true] at hv
  rw [Block.wf_iff] at h ⊢
  rw [Battery.fits_iff]
  exact ⟨h.1, h1, hv.1.1, h3, hv.1.2, h2, hr, hv.2⟩

/-! ### FLUSH -/

theorem execFlush_null {s : State} {b : Block} (hb : s.block = some b) (h : b.bat = .null) :
    execFlush s = .next { s with result := .done } := by
  unfold execFlush; rw [State.onBlock_some hb, h]; rfl

theorem execFlush_clean {s : State} {b : Block} {m : FileBattery} (hb : s.block = some b) (h : b.bat = .file m)
    (hd : m.dirty = false) : execFlush s = .next { s with result := .done } := by
  unfold execFlush; rw [State.onBlock_some hb, h]; simp only [hd]; rfl

theorem execFlush_ok {s : State} {b : Block} {m : FileBattery} (hb : s.block = some b) (h : b.bat = .file m)
    (hd : m.dirty = true) (ho : s.args.ioOk = true) :
    execFlush s =
      .next { s with block := some { b with bat := .file m.flushed }, file := some m.image, result := .done } := by
  unfold execFlush; rw [State.onBlock_some hb, h]; simp only [hd, ho]; rfl

theorem execFlush_failed {s : State} {b : Block} {m : FileBattery} (hb : s.block = some b) (h : b.bat = .file m)
    (hd : m.dirty = true) (ho : s.args.ioOk = false) :
    execFlush s = .next { s with file := failedStore s.freeCount, freeCount := s.freeCount + 1,
                                 result := .fault .ioFailure } := by
  unfold execFlush; rw [State.onBlock_some hb, h]; simp only [hd, ho]; rfl

/-! ### LOAD -/

theorem loadRam_size (f r : Buf) : (loadRam f r).size = r.size := by
  simp only [loadRam, Buf.append_size, Buf.take_size, Buf.drop_size]; omega

theorem loadRam_wf {f r : Buf} (hf : f.wf = true) (hr : r.wf = true) : (loadRam f r).wf = true :=
  Buf.append_wf (Buf.take_wf _ hf) (Buf.drop_wf _ hr)

/-- Each byte of RAM after the load (R292 to R294). -/
theorem loadRam_at {f r : Buf} (hf : f.wf = true) {i : Nat} (hi : i < r.size) :
    (loadRam f r).at i = if i < f.size then f.at i else r.at i := by
  unfold loadRam
  rw [Buf.append_at (Buf.take_wf _ hf), Buf.take_size, Buf.drop_at]
  split_ifs with h1 h2 h2
  · exact Buf.take_at hi
  · omega
  · omega
  · congr 1; omega

theorem fileClock_some {f blk : Buf} {n : Nat} (hf : f.wf = true) (h : fileClock f n = some blk) :
    n + 44 ≤ f.size ∧ blk.size = 44 ∧ blk.wf = true ∧ ∀ i, i < 44 → blk.at i = f.at (n + i) := by
  unfold fileClock Config.clockBlockSize at h
  split_ifs at h with hs
  cases h
  refine ⟨hs, by simp; omega, Buf.take_wf _ (Buf.drop_wf _ hf), fun i hi => ?_⟩
  rw [Buf.take_at hi, Buf.drop_at]

theorem fileClock_none {f : Buf} {n : Nat} (h : fileClock f n = none) : f.size < n + 44 := by
  unfold fileClock Config.clockBlockSize at h
  split_ifs at h with hs
  omega

/-! ### POWER_ON -/

theorem Ctrl.powerOn_legal (v : Variant) (n : Nat) : (Ctrl.powerOn v n).legal = true := by cases v <;> rfl

theorem Ctrl.loadClock_variant (c : Ctrl) (hz : Nat) (o : Option Buf) : (c.loadClock hz o).variant = c.variant := by
  cases c <;> cases o <;> rfl

theorem Ctrl.loadClock_legal {c : Ctrl} (hz : Nat) (o : Option Buf) (h : c.legal = true) :
    (c.loadClock hz o).legal = true := by
  cases c <;> cases o <;> exact h

/-- The clock block that the load leaves has its 44 bytes (R33). -/
theorem Ctrl.loadedClock_spec {f : Buf} (c : Ctrl) (n : Nat) (hf : f.wf = true) :
    (c.loadedClock (fileClock f n)).size = 44 ∧ (c.loadedClock (fileClock f n)).wf = true := by
  unfold Ctrl.loadedClock
  split
  · next h =>
    obtain ⟨-, h2, h3, -⟩ := fileClock_some hf h
    exact ⟨h2, h3⟩
  · exact ⟨rfl, rfl⟩

/-- The block that POWER_ON leaves is well formed. -/
theorem Block.wf_powerOn {p : Params} {f : Option Buf} (hp : p.wf = true) (hf : storeWf f = true) (n : Nat) :
    (Block.powerOn p f n).wf = true := by
  have hram := Buf.replicate_wf p.ramSize p.ramFill
  unfold Block.powerOn
  split_ifs with hb
  · unfold Block.load
    cases f with
    | none =>
      rw [Block.wf_iff, Battery.fits_iff, Battery.lengthFault_none]
      simp [hp, Ctrl.powerOn_legal, hb, Battery.canonical, Config.clockBlockSize, hram]
    | some f =>
      obtain ⟨h1, h2⟩ := Ctrl.loadedClock_spec (Ctrl.powerOn p.variant n) p.ramSize hf
      have hl := loadRam_wf (r := Buf.replicate p.ramSize p.ramFill) hf hram
      rw [Block.wf_iff, Battery.fits_iff, Battery.lengthFault_none]
      simp [hp, Ctrl.loadClock_variant, Ctrl.loadClock_legal, Ctrl.powerOn_legal, hb, Battery.canonical, loadRam_size,
        hl, h1, h2]
  · rw [Block.wf_iff, Battery.fits_iff]
    simp [hp, Ctrl.powerOn_legal, hb, Battery.canonical, Battery.lengthFault, hram]

/-- The parameters that a configuration argument in range gives are well formed (R7, R348 to R352). -/
theorem resolveConfig_wf {c : CartConfig} {p : Params} (hr : c.inRange = true) (hc : c.canonical = true)
    (h : resolveConfig c = .ok p) : p.wf = true := by
  cases c with
  | direct q =>
    simp only [resolveConfig] at h
    split_ifs at h with hs
    cases h
    simp only [CartConfig.canonical, Bool.and_eq_true] at hc
    exact Params.wf_iff.2 ⟨hr, not_not.1 hs, hc.1, hc.2⟩
  | header rom o dmg cgb e =>
    simp only [CartConfig.canonical, Bool.and_eq_true] at hc
    simp only [CartConfig.inRange, Bool.and_eq_true, beq_iff_eq, decide_eq_true_eq] at hr
    simp only [resolveConfig, headerParams] at h
    split at h
    · cases h
    split at h
    · cases h
    next t ht =>
    split at h
    · cases h
    next n hn =>
    split at h
    · cases h
    next raw hraw =>
    split at h
    · cases h
    next hs =>
    cases h
    refine Params.wf_iff.2 ⟨?_, not_not.1 hs, hc.1.1, ?_⟩
    · have hn' : n ∈ [2, 4, 8, 16, 32, 64, 128, 256, 512] := by
        simp only [romBanksOf] at hn
        split_ifs at hn with h8
        cases hn
        generalize (rom.at 328).toNat = m at h8
        interval_cases m <;> decide
      have hraw' : raw ∈ [0, 1, 4, 8, 16] := by
        simp only [rawRamBanksOf] at hraw
        split at hraw <;> first | (cases hraw; decide) | cases hraw
      have hrb : resolveRamBanks t raw ∈ [0, 1, 4, 8, 16] ∧ (t.variant = .mbc2 → resolveRamBanks t raw = 1) := by
        unfold resolveRamBanks
        split_ifs with h1 h2
        · simp
        · simp [h1]
        · exact ⟨hraw', fun h => absurd h h1⟩
      simp only [Params.inRange, Bool.and_eq_true, List.contains_iff_mem, beq_iff_eq, Bool.or_eq_true, bne_iff_ne,
        decide_eq_true_eq]
      refine ⟨⟨⟨⟨hn', hrb.1⟩, ?_⟩, ?_⟩, hr.2⟩
      · by_cases hv : t.variant = .mbc2
        · exact .inr (hrb.2 hv)
        · exact .inl hv
      · split_ifs
        · exact hr.1.2
        · exact hr.1.1
    · dsimp only; split_ifs
      · exact hc.2
      · exact hc.1.2

end Machine
end Sys2Proof
end

