-- ==== Sys2Proof/Laws/Exec.lean ====
section
/-! SUPPORT. Once, everything that a bus transaction can do to the state. -/

namespace Sys2Proof
namespace Machine

@[simp] theorem rdWord_isWrite (a : Addr) : (rdWord a).isWrite = false := by
  unfold rdWord TWord.make TWord.isWrite
  rw [BitVec.getLsbD_append, BitVec.getLsbD_append]
  rfl

@[simp] theorem wrWord_isWrite (a : Addr) (d : Byte) : (wrWord a d).isWrite = true := by
  unfold wrWord TWord.make TWord.isWrite
  rw [BitVec.getLsbD_append, BitVec.getLsbD_append]
  rfl

/-- The ways in which a write transaction `i` at time `now` can change a block. Only the way `ram` is open to an operation
that stores to RAM. -/
inductive WriteEffect (i : Instr) (now : Nat) (b : Block) : Block → Prop where
  /-- Nothing changes. -/
  | ignored (hs : b.stored i = none) : WriteEffect i now b b
  /-- The boot overlay goes. -/
  | overlayOff (hs : b.stored i = none := by rfl) : WriteEffect i now b { b with bootOff := true }
  /-- The byte that the operation stores is stored where it stores it. -/
  | ram (j : Nat) (v : Byte) (ram : Buf) (hi : i.isRamWrite = true) (hs : b.stored i = some (j, v))
      (h : b.ram.set j v = some ram) : WriteEffect i now b { b with ram := ram }
  /-- A controller register other than the RAM-enable flag, or the clock, is written. -/
  | register (c : Ctrl) (hv : c.variant = b.ctrl.variant) (hl : b.ctrl.legal = true → c.legal = true)
      (hs : b.stored i = none := by rfl) : WriteEffect i now b { b with ctrl := c }
  /-- The RAM-enable flag is written, and a save follows if it is left clear. -/
  | gate (c : Ctrl) (e : Bool) (hi : i.isRamGate = true) (hv : c.variant = b.ctrl.variant)
      (hl : b.ctrl.legal = true → c.legal = true) (he : ({ b with ctrl := c } : Block).ctx.ramEnable = e)
      (hs : b.stored i = none := by rfl) :
    WriteEffect i now b (Block.afterEnableWrite { b with ctrl := c } e now)

/-- The outcome of a bus transaction that completes: a read delivers a byte and changes nothing else; a write changes the
block in one of the ways of `WriteEffect`. -/
def BusOutcome (i : Instr) (s t : State) : Prop :=
  ∃ b, s.block = some b ∧
    ((i.isRead = true ∧ ∃ v, t = { s with result := .byte v }) ∨
      (i.isRead = false ∧ ∃ b', WriteEffect i s.now b b' ∧ t = { s with block := some b', result := .done }))

theorem BusOutcome.read {i : Instr} {s t : State} {b : Block} (hb : s.block = some b) (hi : i.isRead = true)
    (h : ∃ v, t = { s with result := .byte v }) : BusOutcome i s t := ⟨b, hb, .inl ⟨hi, h⟩⟩

theorem BusOutcome.deliverFrom {i : Instr} {s t : State} {b : Block} {sp : Space} {x : Buf} {k : Nat}
    (hb : s.block = some b) (hi : i.isRead = true) (h : s.deliverFrom sp x k = .next t) : BusOutcome i s t :=
  .read hb hi (let ⟨v, _, h⟩ := State.deliverFrom_next h; ⟨v, h⟩)

theorem BusOutcome.deliver {i : Instr} {s t : State} {b : Block} {v : Byte} (hb : s.block = some b)
    (hi : i.isRead = true) (h : s.deliver v = .next t) : BusOutcome i s t :=
  .read hb hi (by cases h; exact ⟨v, rfl⟩)

theorem BusOutcome.complete {i : Instr} {s t : State} {b : Block} (hb : s.block = some b) (hi : i.isRead = false)
    (h : s.complete = .next t) (hs : b.stored i = none := by rfl) : BusOutcome i s t := by
  cases h
  exact ⟨b, hb, .inr ⟨hi, b, .ignored hs, by simp [hb]⟩⟩

theorem BusOutcome.commit {i : Instr} {s t : State} {b b' : Block} (hb : s.block = some b) (hi : i.isRead = false)
    (he : WriteEffect i s.now b b') (h : s.commit b' = .next t) : BusOutcome i s t := by
  cases h
  exact ⟨b, hb, .inr ⟨hi, b', he, rfl⟩⟩

theorem BusOutcome.writeRam {i : Instr} {s t : State} {b : Block} {j : Nat} {v : Byte} (hb : s.block = some b)
    (hi : i.isRead = false) (hw : i.isRamWrite = true) (hs : b.stored i = some (j, v)) (h : s.writeRam b j v = .next t) :
    BusOutcome i s t := by
  obtain ⟨ram, h1, rfl⟩ := State.writeRam_next h
  exact ⟨b, hb, .inr ⟨hi, _, .ram j v ram hw hs h1, rfl⟩⟩

theorem BusOutcome.writeWindow {i : Instr} {s t : State} {b : Block} {sh : Bool} {j : Nat} {v : Byte}
    (hb : s.block = some b) (hi : i.isRead = false) (hw : i.isRamWrite = true)
    (hs : b.stored i = if sh then some (j, v) else none) (h : s.writeWindow b sh j v = .next t) : BusOutcome i s t := by
  cases sh
  · exact .complete hb hi h hs
  · exact .writeRam hb hi hw hs h

theorem BusOutcome.readWindow {i : Instr} {s t : State} {b : Block} {sh : Bool} {j : Nat} (hb : s.block = some b)
    (hi : i.isRead = true) (h : s.readWindow b sh j = .next t) : BusOutcome i s t :=
  .read hb hi (State.readWindow_next h)

/-- A bank field in which 0 is written as 1 is never 0. -/
theorem zeroToOne_ne_zero {n : Nat} (hn : 0 < n) (v : BitVec n) : zeroToOne v ≠ 0#n := by
  unfold zeroToOne
  split
  · intro h
    have := congrArg BitVec.toNat h
    simp [Nat.mod_eq_of_lt (Nat.one_lt_two_pow hn.ne')] at this
  · assumption

-- One theorem at a time (see Laws/PerInstr.lean).
set_option Elab.async false

/-- What a bus transaction that completes does. -/
theorem exec_bus {i : Instr} {s t : State} (hi : i.isBus = true) (h : exec i s = .next t) : BusOutcome i s t := by
  cases i <;> simp only [exec] at h
  case ff50Rd => obtain ⟨b, hb, h⟩ := State.onBlock_next h; exact .deliver hb (by simp [Instr.isRead, encode]) h
  case ff50Wr d =>
    obtain ⟨b, hb, h⟩ := State.onBlock_next h
    exact .commit hb (by simp [Instr.isRead, encode]) .overlayOff h
  case bootRd a =>
    obtain ⟨b, hb, h⟩ := State.onBlock_next h
    split at h
    · cases h
    · exact .deliverFrom hb (by simp [Instr.isRead, encode]) h
  case bootcRdA a | bootcRdB a | bootcRdC a =>
    obtain ⟨b, hb, h⟩ := State.onBlock_next h
    split at h
    · cases h
    · exact .deliverFrom hb (by simp [Instr.isRead, encode]) h
  case romRd a => obtain ⟨b, hb, -, h⟩ := State.onRom_next h; exact .deliverFrom hb (by simp [Instr.isRead, encode]) h
  case romWr a d => obtain ⟨b, hb, -, h⟩ := State.onRom_next h; exact .complete hb (by simp [Instr.isRead, encode]) h
  case romRamRd a =>
    obtain ⟨b, hb, -, h⟩ := State.onRom_next h
    exact .readWindow hb (by simp [Instr.isRead, encode]) h
  case romRamWr a d =>
    obtain ⟨b, hb, hc, h⟩ := State.onRom_next h
    exact .writeWindow hb (by simp [Instr.isRead, encode]) rfl (by simp only [Block.stored, hc]) h
  case m1Rom0Rd a | m1RomxRd a =>
    obtain ⟨b, r, hb, -, h⟩ := State.onMbc1_next h
    exact .deliverFrom hb (by simp [Instr.isRead, encode]) h
  case m1RamRd a =>
    obtain ⟨b, r, hb, -, h⟩ := State.onMbc1_next h
    exact .readWindow hb (by simp [Instr.isRead, encode]) h
  case m1RamWr a d =>
    obtain ⟨b, r, hb, hc, h⟩ := State.onMbc1_next h
    exact .writeWindow hb (by simp [Instr.isRead, encode]) rfl (by simp only [Block.stored, hc]) h
  case m1RamgWr a d =>
    obtain ⟨b, r, hb, hc, h⟩ := State.onMbc1_next h
    exact .commit hb (by simp [Instr.isRead, encode]) (.gate _ _ rfl (by rw [hc]; rfl) (by rw [hc]; exact id) rfl) h
  case m1Bank1Wr a d =>
    obtain ⟨b, r, hb, hc, h⟩ := State.onMbc1_next h
    exact .commit hb (by simp [Instr.isRead, encode])
      (.register _ (by rw [hc]; rfl) (fun _ => by simpa [Ctrl.legal] using zeroToOne_ne_zero (by decide) _)) h
  case m1Bank2Wr a d | m1ModeWr a d =>
    obtain ⟨b, r, hb, hc, h⟩ := State.onMbc1_next h
    exact .commit hb (by simp [Instr.isRead, encode]) (.register _ (by rw [hc]; rfl) (by rw [hc]; exact id)) h
  case m2Rom0Rd a | m2RomxRd a =>
    obtain ⟨b, r, hb, -, h⟩ := State.onMbc2_next h
    exact .deliverFrom hb (by simp [Instr.isRead, encode]) h
  case m2NopWr a d =>
    obtain ⟨b, r, hb, -, h⟩ := State.onMbc2_next h
    exact .complete hb (by simp [Instr.isRead, encode]) h
  case m2RamRd a =>
    obtain ⟨b, r, hb, -, h⟩ := State.onMbc2_next h
    split at h
    · split at h
      · exact .deliver hb (by simp [Instr.isRead, encode]) h
      · cases h
    · exact .deliver hb (by simp [Instr.isRead, encode]) h
  case m2RamWr a d =>
    obtain ⟨b, r, hb, hc, h⟩ := State.onMbc2_next h
    exact .writeWindow hb (by simp [Instr.isRead, encode]) rfl (by simp only [Block.stored, hc]) h
  case m2RamgWr a d =>
    obtain ⟨b, r, hb, hc, h⟩ := State.onMbc2_next h
    exact .commit hb (by simp [Instr.isRead, encode]) (.gate _ _ rfl (by rw [hc]; rfl) (by rw [hc]; exact id) rfl) h
  case m2RombWr a d =>
    obtain ⟨b, r, hb, hc, h⟩ := State.onMbc2_next h
    exact .commit hb (by simp [Instr.isRead, encode])
      (.register _ (by rw [hc]; rfl) (fun _ => by simpa [Ctrl.legal] using zeroToOne_ne_zero (by decide) _)) h
  case m3Rom0Rd a | m3RomxRd a =>
    obtain ⟨b, r, k, hb, -, h⟩ := State.onMbc3_next h
    exact .deliverFrom hb (by simp [Instr.isRead, encode]) h
  case m3RamgWr a d =>
    obtain ⟨b, r, k, hb, hc, h⟩ := State.onMbc3_next h
    exact .commit hb (by simp [Instr.isRead, encode]) (.gate _ _ rfl (by rw [hc]; rfl) (by rw [hc]; exact id) rfl) h
  case m3RombWr a d =>
    obtain ⟨b, r, k, hb, hc, h⟩ := State.onMbc3_next h
    exact .commit hb (by simp [Instr.isRead, encode])
      (.register _ (by rw [hc]; rfl) (fun _ => by simpa [Ctrl.legal] using zeroToOne_ne_zero (by decide) _)) h
  case m3SelWr a d | m3LatchWr a d =>
    obtain ⟨b, r, k, hb, hc, h⟩ := State.onMbc3_next h
    exact .commit hb (by simp [Instr.isRead, encode]) (.register _ (by rw [hc]; rfl) (by rw [hc]; exact id)) h
  case m3RamRd a =>
    obtain ⟨b, r, k, hb, -, -, h⟩ := State.onWindow_next h
    exact .deliverFrom hb (by simp [Instr.isRead, encode]) h
  case m3RamWr a d =>
    obtain ⟨b, r, k, hb, hc, ht, h⟩ := State.onWindow_next h
    exact .writeRam hb (by simp [Instr.isRead, encode]) rfl (by simp only [Block.stored, hc, ht, if_true]) h
  case m3NoneRd a =>
    obtain ⟨b, r, k, hb, -, -, h⟩ := State.onWindow_next h
    exact .deliver hb (by simp [Instr.isRead, encode]) h
  case m3NoneWr a d =>
    obtain ⟨b, r, k, hb, -, -, h⟩ := State.onWindow_next h
    exact .complete hb (by simp [Instr.isRead, encode]) h
  case m3RtcsRd a | m3RtcmRd a | m3RtchRd a | m3RtcdlRd a | m3RtcdhRd a =>
    obtain ⟨b, r, k, hb, -, -, h⟩ := State.onWindow_next h; exact .deliver hb (by simp [Instr.isRead, encode]) h
  case m3RtcsWr a d | m3RtcmWr a d | m3RtchWr a d | m3RtcdlWr a d | m3RtcdhWr a d =>
    obtain ⟨b, r, k, hb, hc, -, h⟩ := State.onWindow_next h
    exact .commit hb (by simp [Instr.isRead, encode]) (.register _ (by rw [hc]; rfl) (by rw [hc]; exact id)) h
  case m5Rom0Rd a | m5RomxRd a =>
    obtain ⟨b, r, hb, -, h⟩ := State.onMbc5_next h
    exact .deliverFrom hb (by simp [Instr.isRead, encode]) h
  case m5RamRd a =>
    obtain ⟨b, r, hb, -, h⟩ := State.onMbc5_next h
    exact .readWindow hb (by simp [Instr.isRead, encode]) h
  case m5RamWr a d =>
    obtain ⟨b, r, hb, hc, h⟩ := State.onMbc5_next h
    exact .writeWindow hb (by simp [Instr.isRead, encode]) rfl (by simp only [Block.stored, hc]) h
  case m5NopWr a d =>
    obtain ⟨b, r, hb, -, h⟩ := State.onMbc5_next h
    exact .complete hb (by simp [Instr.isRead, encode]) h
  case m5RamgWr a d =>
    obtain ⟨b, r, hb, hc, h⟩ := State.onMbc5_next h
    exact .commit hb (by simp [Instr.isRead, encode]) (.gate _ _ rfl (by rw [hc]; rfl) (by rw [hc]; exact id) rfl) h
  case m5Romb0Wr a d | m5Romb1Wr a d | m5RambWr a d =>
    obtain ⟨b, r, hb, hc, h⟩ := State.onMbc5_next h
    exact .commit hb (by simp [Instr.isRead, encode]) (.register _ (by rw [hc]; rfl) (by rw [hc]; exact id)) h
  all_goals cases hi

end Machine
end Sys2Proof
end

