-- ==== Sys2Proof/Laws/PerInstr.lean ====
section
/-! SUPPORT. Statements per operation, as syntax: the family `TableRow` says that the canonical word of a well-formed
operation lies in its row of spec/opcode_table.json (30_encoding.md R104). -/

namespace Sys2Proof
namespace Laws

-- One theorem at a time: fifty at once ask for more threads than the memory limit of a check allows.
set_option Elab.async false

/-- The columns "mask" and "match" of the operation's row. -/
def TableRow.row : Instr → Nat × Nat
  | .ff50Rd => (0x1FFFF00, 0xFF5000)
  | .ff50Wr _ => (0x1FFFF00, 0x1FF5000)
  | .bootRd _ => (0x1FF0000, 0x0)
  | .bootcRdA _ => (0x1FE0000, 0x20000)
  | .bootcRdB _ => (0x1FC0000, 0x40000)
  | .bootcRdC _ => (0x1FF0000, 0x80000)
  | .romRd _ => (0x1800000, 0x0)
  | .romWr _ _ => (0x1800000, 0x1000000)
  | .romRamRd _ => (0x1E00000, 0xA00000)
  | .romRamWr _ _ => (0x1E00000, 0x1A00000)
  | .m1Rom0Rd _ => (0x1C00000, 0x0)
  | .m1RomxRd _ => (0x1C00000, 0x400000)
  | .m1RamgWr _ _ => (0x1E00000, 0x1000000)
  | .m1Bank1Wr _ _ => (0x1E00000, 0x1200000)
  | .m1Bank2Wr _ _ => (0x1E00000, 0x1400000)
  | .m1ModeWr _ _ => (0x1E00000, 0x1600000)
  | .m1RamRd _ => (0x1E00000, 0xA00000)
  | .m1RamWr _ _ => (0x1E00000, 0x1A00000)
  | .m2Rom0Rd _ => (0x1C00000, 0x0)
  | .m2RomxRd _ => (0x1C00000, 0x400000)
  | .m2RamgWr _ _ => (0x1C10000, 0x1000000)
  | .m2RombWr _ _ => (0x1C10000, 0x1010000)
  | .m2NopWr _ _ => (0x1C00000, 0x1400000)
  | .m2RamRd _ => (0x1E00000, 0xA00000)
  | .m2RamWr _ _ => (0x1E00000, 0x1A00000)
  | .m3Rom0Rd _ => (0x1C00000, 0x0)
  | .m3RomxRd _ => (0x1C00000, 0x400000)
  | .m3RamgWr _ _ => (0x1E00000, 0x1000000)
  | .m3RombWr _ _ => (0x1E00000, 0x1200000)
  | .m3SelWr _ _ => (0x1E00000, 0x1400000)
  | .m3LatchWr _ _ => (0x1E00000, 0x1600000)
  | .m3RamRd _ => (0x1E00000, 0xA00000)
  | .m3RamWr _ _ => (0x1E00000, 0x1A00000)
  | .m3NoneRd _ => (0x1E00000, 0xA00000)
  | .m3NoneWr _ _ => (0x1E00000, 0x1A00000)
  | .m3RtcsRd _ => (0x1E00000, 0xA00000)
  | .m3RtcmRd _ => (0x1E00000, 0xA00000)
  | .m3RtchRd _ => (0x1E00000, 0xA00000)
  | .m3RtcdlRd _ => (0x1E00000, 0xA00000)
  | .m3RtcdhRd _ => (0x1E00000, 0xA00000)
  | .m3RtcsWr _ _ => (0x1E00000, 0x1A00000)
  | .m3RtcmWr _ _ => (0x1E00000, 0x1A00000)
  | .m3RtchWr _ _ => (0x1E00000, 0x1A00000)
  | .m3RtcdlWr _ _ => (0x1E00000, 0x1A00000)
  | .m3RtcdhWr _ _ => (0x1E00000, 0x1A00000)
  | .m5Rom0Rd _ => (0x1C00000, 0x0)
  | .m5RomxRd _ => (0x1C00000, 0x400000)
  | .m5RamgWr _ _ => (0x1E00000, 0x1000000)
  | .m5Romb0Wr _ _ => (0x1F00000, 0x1200000)
  | .m5Romb1Wr _ _ => (0x1F00000, 0x1300000)
  | .m5RambWr _ _ => (0x1E00000, 0x1400000)
  | .m5NopWr _ _ => (0x1E00000, 0x1600000)
  | .m5RamRd _ => (0x1E00000, 0xA00000)
  | .m5RamWr _ _ => (0x1E00000, 0x1A00000)
  | .powerOn => (0x7, 0x0)
  | .flush => (0x7, 0x1)
  | .snapshot => (0x7, 0x2)
  | .restore => (0x7, 0x3)
  | .powerOff => (0x7, 0x4)

/-- The bits of an encoded operation, numbered as the table numbers them. -/
def TableRow.bits : OpWord → Nat
  | .t w => w.toNat
  | .h c => c.toNat

/-- A well-formed operation's word satisfies `(w & mask) = match` (R104). -/
def TableRow.Statement (i : Instr) : Prop :=
  i.wf = true → TableRow.bits (encode i) &&& (TableRow.row i).1 = (TableRow.row i).2

/-! ### Masks of high bits -/

theorem TableRow.and_high {x n : Nat} (hx : x < 2 ^ 25) (hn : n ≤ 25) : x &&& (2 ^ 25 - 2 ^ n) = x / 2 ^ n * 2 ^ n := by
  have h : 2 ^ 25 - 2 ^ n = (2 ^ (25 - n) - 1) <<< n := by
    rw [Nat.shiftLeft_eq, Nat.sub_mul, ← Nat.pow_add, Nat.sub_add_cancel hn, Nat.one_mul]
  rw [h, ← Nat.shiftRight_eq_div_pow, ← Nat.shiftLeft_eq]
  apply Nat.eq_of_testBit_eq
  intro i
  simp only [Nat.testBit_and, Nat.testBit_shiftLeft, Nat.testBit_two_pow_sub_one, Nat.testBit_shiftRight]
  by_cases h1 : n ≤ i
  · simp only [h1, decide_true, Bool.true_and]
    by_cases h2 : i - n < 25 - n
    · simp [h2, Nat.add_sub_cancel' h1]
    · have : x.testBit i = false := Nat.testBit_lt_two_pow (lt_of_lt_of_le hx (Nat.pow_le_pow_right (by decide) (by omega)))
      simp [h2, Nat.add_sub_cancel' h1, this]
  · simp [h1]

/-- The value of a concatenation. -/
theorem TableRow.toNat_append_add {m n : Nat} (x : BitVec m) (y : BitVec n) :
    (x ++ y).toNat = x.toNat * 2 ^ n + y.toNat := by
  rw [BitVec.toNat_append, ← Nat.shiftLeft_add_eq_or_of_lt y.isLt, Nat.shiftLeft_eq]

theorem TableRow.bits_make (wr : Bool) (a : Addr) (d : Byte) :
    TableRow.bits (.t (TWord.make wr a d)) = wr.toNat * 2 ^ 24 + a.toNat * 256 + d.toNat := by
  show (BitVec.ofBool wr ++ a ++ d).toNat = _
  rw [TableRow.toNat_append_add, TableRow.toNat_append_add, BitVec.toNat_ofBool]
  omega

/-- A row whose mask is the bits from `n` on: the value above bit `n` decides. -/
theorem TableRow.high (n c : Nat) {mask mtch : Nat} {wr : Bool} {a : Addr} {d : Byte} (hn : n ≤ 25)
    (hm : mask = 2 ^ 25 - 2 ^ n) (hc : mtch = c * 2 ^ n)
    (h : (wr.toNat * 2 ^ 24 + a.toNat * 256 + d.toNat) / 2 ^ n = c) :
    TableRow.bits (.t (TWord.make wr a d)) &&& mask = mtch := by
  subst hm hc
  rw [TableRow.and_high (by unfold TableRow.bits; exact BitVec.isLt _) hn, TableRow.bits_make, h]

/-- One bit of a word, as a mask. -/
theorem TableRow.and_bit (x n : Nat) : x &&& 2 ^ n = x / 2 ^ n % 2 * 2 ^ n := by
  rw [Nat.and_two_pow, Nat.testBit_eq_decide_div_mod_eq]
  rcases Nat.mod_two_eq_zero_or_one (x / 2 ^ n) with h | h <;> simp [h]

/-- The two rows of MBC2 that address bit 8 tells apart (R97). -/
theorem TableRow.mbc2 {a : Addr} {d : Byte} (ha : a.within 0x0000 0x3FFF = true) :
    TableRow.bits (.t (wrWord a d)) &&& 0x1C10000 = if a.getLsbD 8 then 0x1010000 else 0x1000000 := by
  have h1 : TableRow.bits (.t (wrWord a d)) &&& 0x1C10000 =
      (TableRow.bits (.t (wrWord a d)) &&& (2 ^ 25 - 2 ^ 22)) ||| (TableRow.bits (.t (wrWord a d)) &&& 2 ^ 16) := by
    rw [← Nat.and_or_distrib_left]; rfl
  have hb : TableRow.bits (.t (wrWord a d)) < 2 ^ 25 := by unfold TableRow.bits; exact BitVec.isLt _
  rw [h1, TableRow.and_high hb (by decide), TableRow.and_bit, wrWord, TableRow.bits_make]
  simp only [Addr.within, Bool.and_eq_true, decide_eq_true_eq] at ha
  have hd := d.isLt
  have e1 : (true.toNat * 2 ^ 24 + a.toNat * 256 + d.toNat) / 2 ^ 22 = 4 := by simp only [Bool.toNat_true]; omega
  have e2 : (true.toNat * 2 ^ 24 + a.toNat * 256 + d.toNat) / 2 ^ 16 % 2 = a.toNat / 256 % 2 := by
    simp only [Bool.toNat_true]; omega
  rw [e1, e2, ← BitVec.testBit_toNat, Nat.testBit_eq_decide_div_mod_eq]
  rcases Nat.mod_two_eq_zero_or_one (a.toNat / 256) with h | h <;> simp [h]

/-! ### One lemma per operation -/

theorem TableRow.ff50Rd : TableRow.Statement (.ff50Rd) := by
  intro _; decide
theorem TableRow.ff50Wr (d : Byte) : TableRow.Statement (.ff50Wr d) := by
  intro _
  exact TableRow.high 8 130896 (by decide) rfl rfl (by have := d.isLt; simp; omega)
theorem TableRow.bootRd (a : Addr) : TableRow.Statement (.bootRd a) := by
  intro h
  simp only [Instr.wf, Addr.within, Bool.and_eq_true, decide_eq_true_eq] at h
  exact TableRow.high 16 0 (by decide) rfl rfl (by simp; omega)
theorem TableRow.bootcRdA (a : Addr) : TableRow.Statement (.bootcRdA a) := by
  intro h
  simp only [Instr.wf, Addr.within, Bool.and_eq_true, decide_eq_true_eq] at h
  exact TableRow.high 17 1 (by decide) rfl rfl (by simp; omega)
theorem TableRow.bootcRdB (a : Addr) : TableRow.Statement (.bootcRdB a) := by
  intro h
  simp only [Instr.wf, Addr.within, Bool.and_eq_true, decide_eq_true_eq] at h
  exact TableRow.high 18 1 (by decide) rfl rfl (by simp; omega)
theorem TableRow.bootcRdC (a : Addr) : TableRow.Statement (.bootcRdC a) := by
  intro h
  simp only [Instr.wf, Addr.within, Bool.and_eq_true, decide_eq_true_eq] at h
  exact TableRow.high 16 8 (by decide) rfl rfl (by simp; omega)
theorem TableRow.romRd (a : Addr) : TableRow.Statement (.romRd a) := by
  intro h
  simp only [Instr.wf, Addr.within, Bool.and_eq_true, decide_eq_true_eq] at h
  exact TableRow.high 23 0 (by decide) rfl rfl (by simp; omega)
theorem TableRow.romWr (a : Addr) (d : Byte) : TableRow.Statement (.romWr a d) := by
  intro h
  simp only [Instr.wf, Addr.within, Bool.and_eq_true, decide_eq_true_eq] at h
  exact TableRow.high 23 2 (by decide) rfl rfl (by have := d.isLt; simp; omega)
theorem TableRow.romRamRd (a : Addr) : TableRow.Statement (.romRamRd a) := by
  intro h
  simp only [Instr.wf, Addr.within, Bool.and_eq_true, decide_eq_true_eq] at h
  exact TableRow.high 21 5 (by decide) rfl rfl (by simp; omega)
theorem TableRow.romRamWr (a : Addr) (d : Byte) : TableRow.Statement (.romRamWr a d) := by
  intro h
  simp only [Instr.wf, Addr.within, Bool.and_eq_true, decide_eq_true_eq] at h
  exact TableRow.high 21 13 (by decide) rfl rfl (by have := d.isLt; simp; omega)
theorem TableRow.m1Rom0Rd (a : Addr) : TableRow.Statement (.m1Rom0Rd a) := by
  intro h
  simp only [Instr.wf, Addr.within, Bool.and_eq_true, decide_eq_true_eq] at h
  exact TableRow.high 22 0 (by decide) rfl rfl (by simp; omega)
theorem TableRow.m1RomxRd (a : Addr) : TableRow.Statement (.m1RomxRd a) := by
  intro h
  simp only [Instr.wf, Addr.within, Bool.and_eq_true, decide_eq_true_eq] at h
  exact TableRow.high 22 1 (by decide) rfl rfl (by simp; omega)
theorem TableRow.m1RamgWr (a : Addr) (d : Byte) : TableRow.Statement (.m1RamgWr a d) := by
  intro h
  simp only [Instr.wf, Addr.within, Bool.and_eq_true, decide_eq_true_eq] at h
  exact TableRow.high 21 8 (by decide) rfl rfl (by have := d.isLt; simp; omega)
theorem TableRow.m1Bank1Wr (a : Addr) (d : Byte) : TableRow.Statement (.m1Bank1Wr a d) := by
  intro h
  simp only [Instr.wf, Addr.within, Bool.and_eq_true, decide_eq_true_eq] at h
  exact TableRow.high 21 9 (by decide) rfl rfl (by have := d.isLt; simp; omega)
theorem TableRow.m1Bank2Wr (a : Addr) (d : Byte) : TableRow.Statement (.m1Bank2Wr a d) := by
  intro h
  simp only [Instr.wf, Addr.within, Bool.and_eq_true, decide_eq_true_eq] at h
  exact TableRow.high 21 10 (by decide) rfl rfl (by have := d.isLt; simp; omega)
theorem TableRow.m1ModeWr (a : Addr) (d : Byte) : TableRow.Statement (.m1ModeWr a d) := by
  intro h
  simp only [Instr.wf, Addr.within, Bool.and_eq_true, decide_eq_true_eq] at h
  exact TableRow.high 21 11 (by decide) rfl rfl (by have := d.isLt; simp; omega)
theorem TableRow.m1RamRd (a : Addr) : TableRow.Statement (.m1RamRd a) := by
  intro h
  simp only [Instr.wf, Addr.within, Bool.and_eq_true, decide_eq_true_eq] at h
  exact TableRow.high 21 5 (by decide) rfl rfl (by simp; omega)
theorem TableRow.m1RamWr (a : Addr) (d : Byte) : TableRow.Statement (.m1RamWr a d) := by
  intro h
  simp only [Instr.wf, Addr.within, Bool.and_eq_true, decide_eq_true_eq] at h
  exact TableRow.high 21 13 (by decide) rfl rfl (by have := d.isLt; simp; omega)
theorem TableRow.m2Rom0Rd (a : Addr) : TableRow.Statement (.m2Rom0Rd a) := by
  intro h
  simp only [Instr.wf, Addr.within, Bool.and_eq_true, decide_eq_true_eq] at h
  exact TableRow.high 22 0 (by decide) rfl rfl (by simp; omega)
theorem TableRow.m2RomxRd (a : Addr) : TableRow.Statement (.m2RomxRd a) := by
  intro h
  simp only [Instr.wf, Addr.within, Bool.and_eq_true, decide_eq_true_eq] at h
  exact TableRow.high 22 1 (by decide) rfl rfl (by simp; omega)
theorem TableRow.m2RamgWr (a : Addr) (d : Byte) : TableRow.Statement (.m2RamgWr a d) := by
  intro h
  simp only [Instr.wf, Bool.and_eq_true, Bool.not_eq_true'] at h
  exact (TableRow.mbc2 h.1).trans (by rw [h.2]; rfl)
theorem TableRow.m2RombWr (a : Addr) (d : Byte) : TableRow.Statement (.m2RombWr a d) := by
  intro h
  simp only [Instr.wf, Bool.and_eq_true] at h
  exact (TableRow.mbc2 h.1).trans (by rw [h.2]; rfl)
theorem TableRow.m2NopWr (a : Addr) (d : Byte) : TableRow.Statement (.m2NopWr a d) := by
  intro h
  simp only [Instr.wf, Addr.within, Bool.and_eq_true, decide_eq_true_eq] at h
  exact TableRow.high 22 5 (by decide) rfl rfl (by have := d.isLt; simp; omega)
theorem TableRow.m2RamRd (a : Addr) : TableRow.Statement (.m2RamRd a) := by
  intro h
  simp only [Instr.wf, Addr.within, Bool.and_eq_true, decide_eq_true_eq] at h
  exact TableRow.high 21 5 (by decide) rfl rfl (by simp; omega)
theorem TableRow.m2RamWr (a : Addr) (d : Byte) : TableRow.Statement (.m2RamWr a d) := by
  intro h
  simp only [Instr.wf, Addr.within, Bool.and_eq_true, decide_eq_true_eq] at h
  exact TableRow.high 21 13 (by decide) rfl rfl (by have := d.isLt; simp; omega)
theorem TableRow.m3Rom0Rd (a : Addr) : TableRow.Statement (.m3Rom0Rd a) := by
  intro h
  simp only [Instr.wf, Addr.within, Bool.and_eq_true, decide_eq_true_eq] at h
  exact TableRow.high 22 0 (by decide) rfl rfl (by simp; omega)
theorem TableRow.m3RomxRd (a : Addr) : TableRow.Statement (.m3RomxRd a) := by
  intro h
  simp only [Instr.wf, Addr.within, Bool.and_eq_true, decide_eq_true_eq] at h
  exact TableRow.high 22 1 (by decide) rfl rfl (by simp; omega)
theorem TableRow.m3RamgWr (a : Addr) (d : Byte) : TableRow.Statement (.m3RamgWr a d) := by
  intro h
  simp only [Instr.wf, Addr.within, Bool.and_eq_true, decide_eq_true_eq] at h
  exact TableRow.high 21 8 (by decide) rfl rfl (by have := d.isLt; simp; omega)
theorem TableRow.m3RombWr (a : Addr) (d : Byte) : TableRow.Statement (.m3RombWr a d) := by
  intro h
  simp only [Instr.wf, Addr.within, Bool.and_eq_true, decide_eq_true_eq] at h
  exact TableRow.high 21 9 (by decide) rfl rfl (by have := d.isLt; simp; omega)
theorem TableRow.m3SelWr (a : Addr) (d : Byte) : TableRow.Statement (.m3SelWr a d) := by
  intro h
  simp only [Instr.wf, Addr.within, Bool.and_eq_true, decide_eq_true_eq] at h
  exact TableRow.high 21 10 (by decide) rfl rfl (by have := d.isLt; simp; omega)
theorem TableRow.m3LatchWr (a : Addr) (d : Byte) : TableRow.Statement (.m3LatchWr a d) := by
  intro h
  simp only [Instr.wf, Addr.within, Bool.and_eq_true, decide_eq_true_eq] at h
  exact TableRow.high 21 11 (by decide) rfl rfl (by have := d.isLt; simp; omega)
theorem TableRow.m3RamRd (a : Addr) : TableRow.Statement (.m3RamRd a) := by
  intro h
  simp only [Instr.wf, Addr.within, Bool.and_eq_true, decide_eq_true_eq] at h
  exact TableRow.high 21 5 (by decide) rfl rfl (by simp; omega)
theorem TableRow.m3RamWr (a : Addr) (d : Byte) : TableRow.Statement (.m3RamWr a d) := by
  intro h
  simp only [Instr.wf, Addr.within, Bool.and_eq_true, decide_eq_true_eq] at h
  exact TableRow.high 21 13 (by decide) rfl rfl (by have := d.isLt; simp; omega)
theorem TableRow.m3NoneRd (a : Addr) : TableRow.Statement (.m3NoneRd a) := by
  intro h
  simp only [Instr.wf, Addr.within, Bool.and_eq_true, decide_eq_true_eq] at h
  exact TableRow.high 21 5 (by decide) rfl rfl (by simp; omega)
theorem TableRow.m3NoneWr (a : Addr) (d : Byte) : TableRow.Statement (.m3NoneWr a d) := by
  intro h
  simp only [Instr.wf, Addr.within, Bool.and_eq_true, decide_eq_true_eq] at h
  exact TableRow.high 21 13 (by decide) rfl rfl (by have := d.isLt; simp; omega)
theorem TableRow.m3RtcsRd (a : Addr) : TableRow.Statement (.m3RtcsRd a) := by
  intro h
  simp only [Instr.wf, Addr.within, Bool.and_eq_true, decide_eq_true_eq] at h
  exact TableRow.high 21 5 (by decide) rfl rfl (by simp; omega)
theorem TableRow.m3RtcmRd (a : Addr) : TableRow.Statement (.m3RtcmRd a) := by
  intro h
  simp only [Instr.wf, Addr.within, Bool.and_eq_true, decide_eq_true_eq] at h
  exact TableRow.high 21 5 (by decide) rfl rfl (by simp; omega)
theorem TableRow.m3RtchRd (a : Addr) : TableRow.Statement (.m3RtchRd a) := by
  intro h
  simp only [Instr.wf, Addr.within, Bool.and_eq_true, decide_eq_true_eq] at h
  exact TableRow.high 21 5 (by decide) rfl rfl (by simp; omega)
theorem TableRow.m3RtcdlRd (a : Addr) : TableRow.Statement (.m3RtcdlRd a) := by
  intro h
  simp only [Instr.wf, Addr.within, Bool.and_eq_true, decide_eq_true_eq] at h
  exact TableRow.high 21 5 (by decide) rfl rfl (by simp; omega)
theorem TableRow.m3RtcdhRd (a : Addr) : TableRow.Statement (.m3RtcdhRd a) := by
  intro h
  simp only [Instr.wf, Addr.within, Bool.and_eq_true, decide_eq_true_eq] at h
  exact TableRow.high 21 5 (by decide) rfl rfl (by simp; omega)
theorem TableRow.m3RtcsWr (a : Addr) (d : Byte) : TableRow.Statement (.m3RtcsWr a d) := by
  intro h
  simp only [Instr.wf, Addr.within, Bool.and_eq_true, decide_eq_true_eq] at h
  exact TableRow.high 21 13 (by decide) rfl rfl (by have := d.isLt; simp; omega)
theorem TableRow.m3RtcmWr (a : Addr) (d : Byte) : TableRow.Statement (.m3RtcmWr a d) := by
  intro h
  simp only [Instr.wf, Addr.within, Bool.and_eq_true, decide_eq_true_eq] at h
  exact TableRow.high 21 13 (by decide) rfl rfl (by have := d.isLt; simp; omega)
theorem TableRow.m3RtchWr (a : Addr) (d : Byte) : TableRow.Statement (.m3RtchWr a d) := by
  intro h
  simp only [Instr.wf, Addr.within, Bool.and_eq_true, decide_eq_true_eq] at h
  exact TableRow.high 21 13 (by decide) rfl rfl (by have := d.isLt; simp; omega)
theorem TableRow.m3RtcdlWr (a : Addr) (d : Byte) : TableRow.Statement (.m3RtcdlWr a d) := by
  intro h
  simp only [Instr.wf, Addr.within, Bool.and_eq_true, decide_eq_true_eq] at h
  exact TableRow.high 21 13 (by decide) rfl rfl (by have := d.isLt; simp; omega)
theorem TableRow.m3RtcdhWr (a : Addr) (d : Byte) : TableRow.Statement (.m3RtcdhWr a d) := by
  intro h
  simp only [Instr.wf, Addr.within, Bool.and_eq_true, decide_eq_true_eq] at h
  exact TableRow.high 21 13 (by decide) rfl rfl (by have := d.isLt; simp; omega)
theorem TableRow.m5Rom0Rd (a : Addr) : TableRow.Statement (.m5Rom0Rd a) := by
  intro h
  simp only [Instr.wf, Addr.within, Bool.and_eq_true, decide_eq_true_eq] at h
  exact TableRow.high 22 0 (by decide) rfl rfl (by simp; omega)
theorem TableRow.m5RomxRd (a : Addr) : TableRow.Statement (.m5RomxRd a) := by
  intro h
  simp only [Instr.wf, Addr.within, Bool.and_eq_true, decide_eq_true_eq] at h
  exact TableRow.high 22 1 (by decide) rfl rfl (by simp; omega)
theorem TableRow.m5RamgWr (a : Addr) (d : Byte) : TableRow.Statement (.m5RamgWr a d) := by
  intro h
  simp only [Instr.wf, Addr.within, Bool.and_eq_true, decide_eq_true_eq] at h
  exact TableRow.high 21 8 (by decide) rfl rfl (by have := d.isLt; simp; omega)
theorem TableRow.m5Romb0Wr (a : Addr) (d : Byte) : TableRow.Statement (.m5Romb0Wr a d) := by
  intro h
  simp only [Instr.wf, Addr.within, Bool.and_eq_true, decide_eq_true_eq] at h
  exact TableRow.high 20 18 (by decide) rfl rfl (by have := d.isLt; simp; omega)
theorem TableRow.m5Romb1Wr (a : Addr) (d : Byte) : TableRow.Statement (.m5Romb1Wr a d) := by
  intro h
  simp only [Instr.wf, Addr.within, Bool.and_eq_true, decide_eq_true_eq] at h
  exact TableRow.high 20 19 (by decide) rfl rfl (by have := d.isLt; simp; omega)
theorem TableRow.m5RambWr (a : Addr) (d : Byte) : TableRow.Statement (.m5RambWr a d) := by
  intro h
  simp only [Instr.wf, Addr.within, Bool.and_eq_true, decide_eq_true_eq] at h
  exact TableRow.high 21 10 (by decide) rfl rfl (by have := d.isLt; simp; omega)
theorem TableRow.m5NopWr (a : Addr) (d : Byte) : TableRow.Statement (.m5NopWr a d) := by
  intro h
  simp only [Instr.wf, Addr.within, Bool.and_eq_true, decide_eq_true_eq] at h
  exact TableRow.high 21 11 (by decide) rfl rfl (by have := d.isLt; simp; omega)
theorem TableRow.m5RamRd (a : Addr) : TableRow.Statement (.m5RamRd a) := by
  intro h
  simp only [Instr.wf, Addr.within, Bool.and_eq_true, decide_eq_true_eq] at h
  exact TableRow.high 21 5 (by decide) rfl rfl (by simp; omega)
theorem TableRow.m5RamWr (a : Addr) (d : Byte) : TableRow.Statement (.m5RamWr a d) := by
  intro h
  simp only [Instr.wf, Addr.within, Bool.and_eq_true, decide_eq_true_eq] at h
  exact TableRow.high 21 13 (by decide) rfl rfl (by have := d.isLt; simp; omega)
theorem TableRow.powerOn : TableRow.Statement (.powerOn) := by
  intro _; decide
theorem TableRow.flush : TableRow.Statement (.flush) := by
  intro _; decide
theorem TableRow.snapshot : TableRow.Statement (.snapshot) := by
  intro _; decide
theorem TableRow.restore : TableRow.Statement (.restore) := by
  intro _; decide
theorem TableRow.powerOff : TableRow.Statement (.powerOff) := by
  intro _; decide

end Laws
end Sys2Proof
end

