-- ==== Sys2Proof/Tests/Slice0.lean ====
section
/-! SUPPORT. The model's own tests. Expected values come from 95_test_vectors.md (its sections are named) or are computed
by hand from the rule named. Each test is about one step on a small state; the last part shows, for every obligation
with hypotheses, concrete data that meets them. -/

namespace Sys2Proof
namespace Machine
namespace Tests

-- One theorem at a time: many at once ask for more threads than the memory limit of a check allows.
set_option Elab.async false

-- `decide` walks the decoder's chain of windows once for each word of a test.
set_option maxRecDepth 8000

/-! ### Ill-formed operations, one for each bound of each row's window (R94 to R99) -/

theorem test_ill_formed_front :
    ([0x0100#16, 0x01FF#16, 0xFF50#16].all fun a => !(Instr.bootRd a).wf) = true ∧
    ([0x01FF#16, 0x0400#16].all fun a => !(Instr.bootcRdA a).wf) = true ∧
    ([0x03FF#16, 0x0800#16].all fun a => !(Instr.bootcRdB a).wf) = true ∧
    ([0x07FF#16, 0x0900#16].all fun a => !(Instr.bootcRdC a).wf) = true := by decide

theorem test_ill_formed_rom :
    (Instr.romRd 0x8000#16).wf = false ∧ (Instr.romWr 0x8000#16 0x00#8).wf = false ∧
    ([0x9FFF#16, 0xC000#16].all fun a => !(Instr.romRamRd a).wf && !(Instr.romRamWr a 0x00#8).wf) = true := by decide

theorem test_ill_formed_mbc1 :
    (Instr.m1Rom0Rd 0x4000#16).wf = false ∧
    ([0x3FFF#16, 0x8000#16].all fun a => !(Instr.m1RomxRd a).wf) = true ∧
    (Instr.m1RamgWr 0x2000#16 0x0A#8).wf = false ∧
    ([0x1FFF#16, 0x4000#16].all fun a => !(Instr.m1Bank1Wr a 0x05#8).wf) = true ∧
    ([0x3FFF#16, 0x6000#16].all fun a => !(Instr.m1Bank2Wr a 0x02#8).wf) = true ∧
    ([0x5FFF#16, 0x8000#16].all fun a => !(Instr.m1ModeWr a 0x01#8).wf) = true ∧
    ([0x9FFF#16, 0xC000#16].all fun a => !(Instr.m1RamRd a).wf && !(Instr.m1RamWr a 0x00#8).wf) = true := by decide

/-- Both bounds and, for the two register rows, address bit 8 (R171, R172). -/
theorem test_ill_formed_mbc2 :
    (Instr.m2Rom0Rd 0x4000#16).wf = false ∧
    ([0x3FFF#16, 0x8000#16].all fun a => !(Instr.m2RomxRd a).wf) = true ∧
    ([0x4000#16, 0x2100#16, 0x3FFF#16].all fun a => !(Instr.m2RamgWr a 0x0A#8).wf) = true ∧
    ([0x4100#16, 0x2000#16, 0x3E00#16].all fun a => !(Instr.m2RombWr a 0x07#8).wf) = true ∧
    ([0x3FFF#16, 0x8000#16].all fun a => !(Instr.m2NopWr a 0x05#8).wf) = true ∧
    ([0x9FFF#16, 0xC000#16].all fun a => !(Instr.m2RamRd a).wf && !(Instr.m2RamWr a 0x00#8).wf) = true := by decide

theorem test_ill_formed_mbc3_registers :
    (Instr.m3Rom0Rd 0x4000#16).wf = false ∧
    ([0x3FFF#16, 0x8000#16].all fun a => !(Instr.m3RomxRd a).wf) = true ∧
    (Instr.m3RamgWr 0x2000#16 0x0A#8).wf = false ∧
    ([0x1FFF#16, 0x4000#16].all fun a => !(Instr.m3RombWr a 0x05#8).wf) = true ∧
    ([0x3FFF#16, 0x6000#16].all fun a => !(Instr.m3SelWr a 0x08#8).wf) = true ∧
    ([0x5FFF#16, 0x8000#16].all fun a => !(Instr.m3LatchWr a 0x01#8).wf) = true := by decide

theorem test_ill_formed_mbc3_window :
    ([0x9FFF#16, 0xC000#16].all fun a => [Instr.m3RamRd a, .m3RamWr a 0#8, .m3NoneRd a, .m3NoneWr a 0#8, .m3RtcsRd a,
      .m3RtcmRd a, .m3RtchRd a, .m3RtcdlRd a, .m3RtcdhRd a, .m3RtcsWr a 0#8, .m3RtcmWr a 0#8, .m3RtchWr a 0#8,
      .m3RtcdlWr a 0#8, .m3RtcdhWr a 0#8].all fun i => !i.wf) = true := by decide

theorem test_ill_formed_mbc5 :
    (Instr.m5Rom0Rd 0x4000#16).wf = false ∧
    ([0x3FFF#16, 0x8000#16].all fun a => !(Instr.m5RomxRd a).wf) = true ∧
    (Instr.m5RamgWr 0x2000#16 0x0A#8).wf = false ∧
    ([0x1FFF#16, 0x3000#16].all fun a => !(Instr.m5Romb0Wr a 0x05#8).wf) = true ∧
    ([0x2FFF#16, 0x4000#16].all fun a => !(Instr.m5Romb1Wr a 0x01#8).wf) = true ∧
    ([0x3FFF#16, 0x6000#16].all fun a => !(Instr.m5RambWr a 0x0F#8).wf) = true ∧
    ([0x5FFF#16, 0x8000#16].all fun a => !(Instr.m5NopWr a 0x01#8).wf) = true ∧
    ([0x9FFF#16, 0xC000#16].all fun a => !(Instr.m5RamRd a).wf && !(Instr.m5RamWr a 0x00#8).wf) = true := by decide

/-! ### Decoding: one word or more for every row, written out from R90

A word is seven hexadecimal digits: W, the four digits of A, the two of D. -/

/-- The context of a block whose overlay is off and whose RAM is disabled. -/
def plainCtx (v : Variant) : DecodeCtx :=
  { variant := v, cgb := false, bootOff := true, ramEnable := false, sel := 0#4, ramBanks := 4 }

/-- An MBC3 context with the RAM window enabled and `sel` chosen. -/
def windowCtx (sel : BitVec 4) : DecodeCtx := { plainCtx .mbc3 with ramEnable := true, sel := sel }

/-- R94; 2.1, 2.2 rows 1 to 12. -/
theorem test_decode_front :
    (∀ v ∈ [Variant.rom, .mbc1, .mbc2, .mbc3, .mbc5],
      decode (some (plainCtx v)) (.t 0x0FF5000#25) = .instr .ff50Rd ∧
      decode (some (plainCtx v)) (.t 0x1FF5001#25) = .instr (.ff50Wr 0x01#8) ∧
      decode (some { plainCtx v with bootOff := false }) (.t 0x0000000#25) = .instr (.bootRd 0x0000#16) ∧
      decode (some { plainCtx v with bootOff := false }) (.t 0x000FF00#25) = .instr (.bootRd 0x00FF#16)) ∧
    ∀ p ∈ [(0x0020000#25, Instr.bootcRdA 0x0200#16), (0x003FF00#25, .bootcRdA 0x03FF#16),
        (0x0040000#25, .bootcRdB 0x0400#16), (0x007FF00#25, .bootcRdB 0x07FF#16), (0x0080000#25, .bootcRdC 0x0800#16),
        (0x008FF00#25, .bootcRdC 0x08FF#16), (0x0010000#25, .m5Rom0Rd 0x0100#16), (0x001FF00#25, .m5Rom0Rd 0x01FF#16),
        (0x0090000#25, .m5Rom0Rd 0x0900#16), (0x100000A#25, .m5RamgWr 0x0000#16 0x0A#8)],
      decode (some { plainCtx .mbc5 with bootOff := false, cgb := true }) (.t p.1) = .instr p.2 := by decide

/-- R95. -/
theorem test_decode_rom :
    ∀ p ∈ [(0x0015000#25, Instr.romRd 0x0150#16), (0x07FFF00#25, .romRd 0x7FFF#16), (0x1200005#25, .romWr 0x2000#16 0x05#8),
        (0x0A00000#25, .romRamRd 0xA000#16), (0x0BFFF00#25, .romRamRd 0xBFFF#16), (0x1A1235A#25, .romRamWr 0xA123#16 0x5A#8)],
      decode (some (plainCtx .rom)) (.t p.1) = .instr p.2 := by decide

/-- R96; 2.1 (a read word with non-zero D, and `WR 0x2000, 0x05`). -/
theorem test_decode_mbc1 :
    ∀ p ∈ [(0x0010000#25, Instr.m1Rom0Rd 0x0100#16), (0x0400000#25, .m1RomxRd 0x4000#16), (0x04000AB#25, .m1RomxRd 0x4000#16),
        (0x07FFF00#25, .m1RomxRd 0x7FFF#16), (0x11FFFA0#25, .m1RamgWr 0x1FFF#16 0xA0#8),
        (0x1200005#25, .m1Bank1Wr 0x2000#16 0x05#8), (0x13FFFFF#25, .m1Bank1Wr 0x3FFF#16 0xFF#8),
        (0x15FFF03#25, .m1Bank2Wr 0x5FFF#16 0x03#8), (0x17000FE#25, .m1ModeWr 0x7000#16 0xFE#8),
        (0x0A01000#25, .m1RamRd 0xA010#16), (0x1A01077#25, .m1RamWr 0xA010#16 0x77#8)],
      decode (some (plainCtx .mbc1)) (.t p.1) = .instr p.2 := by decide

/-- R97; 2.1, program 4: address bit 8 selects the register. -/
theorem test_decode_mbc2 :
    ∀ p ∈ [(0x03FFF00#25, Instr.m2Rom0Rd 0x3FFF#16), (0x0400000#25, .m2RomxRd 0x4000#16),
        (0x120000A#25, .m2RamgWr 0x2000#16 0x0A#8), (0x13E0000#25, .m2RamgWr 0x3E00#16 0x00#8),
        (0x1010010#25, .m2RombWr 0x0100#16 0x10#8), (0x1210007#25, .m2RombWr 0x2100#16 0x07#8),
        (0x1400005#25, .m2NopWr 0x4000#16 0x05#8), (0x0BE0500#25, .m2RamRd 0xBE05#16), (0x1A20512#25, .m2RamWr 0xA205#16 0x12#8)],
      decode (some (plainCtx .mbc2)) (.t p.1) = .instr p.2 := by decide

/-- R98: the rows outside the RAM window. -/
theorem test_decode_mbc3_registers :
    ∀ p ∈ [(0x0010000#25, Instr.m3Rom0Rd 0x0100#16), (0x07FFF00#25, .m3RomxRd 0x7FFF#16),
        (0x100000A#25, .m3RamgWr 0x0000#16 0x0A#8), (0x1200080#25, .m3RombWr 0x2000#16 0x80#8),
        (0x15FFF0D#25, .m3SelWr 0x5FFF#16 0x0D#8), (0x17FFF01#25, .m3LatchWr 0x7FFF#16 0x01#8),
        (0x0A00000#25, .m3NoneRd 0xA000#16), (0x1A00012#25, .m3NoneWr 0xA000#16 0x12#8)],
      decode (some (plainCtx .mbc3)) (.t p.1) = .instr p.2 := by decide

/-- R98 with R197: the rows of the RAM window. -/
theorem test_decode_mbc3_window :
    (∀ p ∈ [(0x0#4, Instr.m3RamRd 0xA123#16), (0x3#4, .m3RamRd 0xA123#16), (0x4#4, .m3NoneRd 0xA123#16),
        (0x7#4, .m3NoneRd 0xA123#16), (0x8#4, .m3RtcsRd 0xA123#16), (0x9#4, .m3RtcmRd 0xA123#16), (0xA#4, .m3RtchRd 0xA123#16),
        (0xB#4, .m3RtcdlRd 0xA123#16), (0xC#4, .m3RtcdhRd 0xA123#16), (0xD#4, .m3NoneRd 0xA123#16),
        (0xF#4, .m3NoneRd 0xA123#16)], decode (some (windowCtx p.1)) (.t 0x0A12300#25) = .instr p.2) ∧
    (∀ p ∈ [(0x3#4, Instr.m3RamWr 0xBFFF#16 0x11#8), (0x5#4, .m3NoneWr 0xBFFF#16 0x11#8), (0x8#4, .m3RtcsWr 0xBFFF#16 0x11#8),
        (0x9#4, .m3RtcmWr 0xBFFF#16 0x11#8), (0xA#4, .m3RtchWr 0xBFFF#16 0x11#8), (0xB#4, .m3RtcdlWr 0xBFFF#16 0x11#8),
        (0xC#4, .m3RtcdhWr 0xBFFF#16 0x11#8), (0xE#4, .m3NoneWr 0xBFFF#16 0x11#8)],
      decode (some (windowCtx p.1)) (.t 0x1BFFF11#25) = .instr p.2) ∧
    decode (some { windowCtx 0x0#4 with ramBanks := 0 }) (.t 0x0A00000#25) = .instr (.m3NoneRd 0xA000#16) := by decide

/-- R99; program 3. -/
theorem test_decode_mbc5 :
    ∀ p ∈ [(0x0000000#25, Instr.m5Rom0Rd 0x0000#16), (0x0400500#25, .m5RomxRd 0x4005#16), (0x11FFFF0#25, .m5RamgWr 0x1FFF#16 0xF0#8),
        (0x1200034#25, .m5Romb0Wr 0x2000#16 0x34#8), (0x12FFF00#25, .m5Romb0Wr 0x2FFF#16 0x00#8),
        (0x1300001#25, .m5Romb1Wr 0x3000#16 0x01#8), (0x13FFFFE#25, .m5Romb1Wr 0x3FFF#16 0xFE#8),
        (0x1400006#25, .m5RambWr 0x4000#16 0x06#8), (0x1600001#25, .m5NopWr 0x6000#16 0x01#8),
        (0x0A00100#25, .m5RamRd 0xA001#16), (0x1A00199#25, .m5RamWr 0xA001#16 0x99#8)],
      decode (some (plainCtx .mbc5)) (.t p.1) = .instr p.2 := by decide

/-- 2.1: the words at addresses that are not claimed are refused, whatever the variant. -/
theorem test_decode_unclaimed :
    ([Variant.rom, .mbc1, .mbc2, .mbc3, .mbc5].all fun v => [(0x0FFFF00#25, 0xFFFF#16), (0x1FFFFFF#25, 0xFFFF#16),
        (0x0800000#25, 0x8000#16), (0x09FFF00#25, 0x9FFF#16), (0x0C00000#25, 0xC000#16), (0x0FF4F00#25, 0xFF4F#16),
        (0x0FF5100#25, 0xFF51#16)].all fun p =>
      decode (some (plainCtx v)) (.t p.1) == .rejected (.notClaimed p.2)) = true := by decide

/-- R91: the five host codes and the three unassigned ones; a bus word needs a block. -/
theorem test_decode_host :
    (decode none (.h 0b000#3) = .instr .powerOn ∧ decode none (.h 0b001#3) = .instr .flush ∧
      decode none (.h 0b010#3) = .instr .snapshot ∧ decode none (.h 0b011#3) = .instr .restore ∧
      decode none (.h 0b100#3) = .instr .powerOff) ∧
    ([0b101#3, 0b110#3, 0b111#3].all fun k => decode none (.h k) == .rejected (.unassignedHostCode k)) = true ∧
    decode none (.t 0x0000000#25) = .rejected .noBlock := by decide

/-- The host's port: a 32-bit T word and an 8-bit H code, in the context of the reset block (log 12). -/
theorem test_table_words :
    decodeTableWord 32 0x1FF5001 = some (.ff50Wr 0x01#8) ∧ decodeTableWord 32 0x0400000 = some (.m1RomxRd 0x4000#16) ∧
    decodeTableWord 8 1 = some .flush ∧ decodeTableWord 8 5 = none ∧ decodeTableWord 32 0x2000000 = none := by decide

/-- The word placed by `withFetchWord` is the one the next step takes (log 12). -/
theorem test_with_fetch_word :
    (match step (State.reset.withFetchWord 32 0x1FF5001) with
      | .next t => t.block.map Block.bootOff
      | _ => none) = some true ∧
    (match step (State.reset.withFetchWord 8 4) with
      | .next t => some t.block
      | _ => none) = some none := by decide

/-- `accepts`, 2.2. -/
theorem test_accepts :
    [0x0000#16, 0x7FFF#16, 0xA000#16, 0xBFFF#16, 0xFF50#16].all accepts = true ∧
    [0x8000#16, 0x9FFF#16, 0xC000#16, 0xFF4F#16, 0xFF51#16, 0xFFFF#16].any accepts = false := by decide

/-! ### Small states -/

/-- The bytes of the ROM test image of 95_test_vectors.md that the tests read (the others are left 0x00). -/
def romCells : List Host.Cell :=
  [(0x0100, 0x01), (0x0150, 0x51), (0x0200, 0x02), (0x08FF, 0x07), (0x0900, 0x09), (0x4000, 0x11), (0x4001, 0x12),
   (0x7FFF, 0x4F), (0x8000, 0x22), (0x14000, 0x55), (0x1C000, 0x77), (0x3FFFF, 0x3D), (0x80000, 0x20),
   (0x80100, 0x21), (0x84000, 0x31), (0xD0000, 0x74), (0x117FFF, 0xD3), (0x1FFFFF, 0xAD), (0x4D0000, 0x74)]

/-- The ROM test image of `n` banks, sparse. -/
def testRom (n : Nat) : Buf := { size := n * 0x4000, cells := romCells.filter fun c => decide (c.1 < n * 0x4000) }

/-- The boot test image, sparse. -/
def testBoot (cgb : Bool) : Buf :=
  if cgb then { size := 0x800, cells := [(0, 0x80), (0xFF, 0x8F), (0x100, 0x90), (0x7FF, 0xFF)] }
  else { size := 0x100, cells := [(0, 0x80), (0xFF, 0x8F)] }

/-- Parameters: variant, ROM banks, RAM banks, battery; no colour, `OPEN_BUS = 0xFF`, `RAM_FILL = 0`. -/
def par (v : Variant) (rom ram : Nat) (battery : Bool) : Params :=
  { rom := testRom rom, variant := v, romBanks := rom, ramBanks := ram, hasBattery := battery, cgb := false,
    boot := testBoot false, openBus := 0xFF#8, ramFill := 0x00#8, tickHz := 1000, latchPolicy := .toggle }

/-- A battery with clean zero buffers, or none. -/
def cleanBattery (p : Params) : Battery :=
  if p.hasBattery then
    .file { bRam := { size := p.ramBanks * 0x2000, cells := [] }, bClock := { size := 44, cells := [] },
            clockPresent := false, dirty := false }
  else .null

/-- A block with these parameters and controller, the overlay off, the listed RAM bytes. -/
def blk (p : Params) (c : Ctrl) (ram : List Host.Cell := []) : Block :=
  { params := p, bootOff := true, ctrl := c, ram := { size := p.ramBanks * 0x2000, cells := ram }, bat := cleanBattery p }

/-- The machine with this block at time `now`, nothing waiting. -/
def at_ (b : Block) (now : Nat := 1000) : State := { State.reset with block := some b, now := now }

/-- One step that takes the transaction word `w`. -/
def put (s : State) (w : TWord) : Out := step { s with pending := [{ now := s.now, op := .bus w }] }

/-- One step that takes the host code `c` with arguments `a`. -/
def ask (s : State) (c : HCode) (a : HostArgs := HostArgs.reset) : Out :=
  step { s with pending := [{ now := s.now, op := .host c a }] }

/-- What the step returned. -/
def got : Out → Option Result
  | .next s => some s.result
  | _ => none

/-- The controller after the step. -/
def ctrl : Out → Option Ctrl
  | .next s => s.block.map Block.ctrl
  | _ => none

/-- The RTC after the step. -/
def clock (o : Out) : Option Rtc :=
  match ctrl o with
  | some (.mbc3 _ k) => some k
  | _ => none

/-- The listed RAM bytes after the step. -/
def ram : Out → Option (List Host.Cell)
  | .next s => s.block.map fun b => b.ram.cells
  | _ => none

/-- The battery after the step. -/
def bat : Out → Option Battery
  | .next s => s.block.map Block.bat
  | _ => none

/-- The store after the step. -/
def file : Out → Option (Option Buf)
  | .next s => some s.file
  | _ => none

/-! ### Front decoder (2.2) -/

/-- Rows 1, 2, 6, 7: the two overlay windows. -/
theorem test_boot_reads :
    got (put (at_ { blk (par .mbc1 8 4 true) .rom with bootOff := false }) 0x000FF00#25) = some (.byte 0x8F#8) ∧
    (let s := at_ { blk { par .mbc5 8 4 true with cgb := true, boot := testBoot true } .rom with bootOff := false }
     got (put s 0x0020000#25) = some (.byte 0x90#8) ∧ got (put s 0x008FF00#25) = some (.byte 0xFF#8) ∧
     got (put s 0x007FF00#25) = some (.byte 0x00#8)) := by decide

/-- Rows 10 and 12. -/
theorem test_disable_register :
    (match put (at_ { blk (par .rom 2 0 false) .rom with bootOff := false }) 0x1FF5000#25 with
      | .next t => t.block.map Block.bootOff
      | _ => none) = some true ∧
    got (put (at_ (blk { par .rom 2 0 false with openBus := 0x00#8 } .rom)) 0x0FF5000#25) = some (.byte 0xFF#8) := by decide

/-! ### The ROM variant (2.3) -/

/-- Rows 1 to 3. -/
theorem test_rom_window :
    (let s := at_ (blk (par .rom 2 0 false) .rom)
     got (put s 0x0015000#25) = some (.byte 0x51#8) ∧ got (put s 0x0400000#25) = some (.byte 0x11#8) ∧
     got (put s 0x07FFF00#25) = some (.byte 0x4F#8) ∧ got (put s 0x1200005#25) = some .done ∧
     ctrl (put s 0x1200005#25) = some .rom) := by decide

/-- Rows 4 to 7. -/
theorem test_rom_ram :
    got (put (at_ (blk (par .rom 2 0 false) .rom)) 0x0A00000#25) = some (.byte 0xFF#8) ∧
    ram (put (at_ (blk (par .rom 2 0 false) .rom)) 0x1A00012#25) = some [] ∧
    ram (put (at_ (blk (par .rom 2 1 false) .rom)) 0x1A1235A#25) = some [(0x123, 0x5A#8)] ∧
    got (put (at_ (blk (par .rom 2 1 false) .rom [(0x123, 0x5A#8)])) 0x0A12300#25) = some (.byte 0x5A#8) := by decide

/-! ### MBC1 (2.4) -/

/-- MBC1 registers in the order of R25. -/
def c1 (en : Bool) (b1 : BitVec 5) (b2 : BitVec 2) (mode : Bool) : Ctrl := .mbc1 ⟨en, b1, b2, mode⟩

/-- Rows 1 and 2: the key is the low nibble; a write that leaves RAM disabled saves. -/
theorem test_mbc1_enable :
    (let s := at_ (blk (par .mbc1 8 4 true) (c1 false 1#5 0#2 false) [(5, 0x42#8)])
     ctrl (put s 0x10000FA#25) = some (c1 true 1#5 0#2 false) ∧ ctrl (put s 0x11FFFA0#25) = some (c1 false 1#5 0#2 false) ∧
     bat (put s 0x10000FA#25) = some (cleanBattery (par .mbc1 8 4 true)) ∧
     bat (put s 0x11FFFA0#25) = some (.file
       { bRam := { size := 0x8000, cells := [(5, 0x42#8)] }, bClock := { size := 44, cells := [] }, clockPresent := false,
         dirty := true })) := by decide

/-- Rows 3 to 6. -/
theorem test_mbc1_registers :
    (let s := at_ (blk (par .mbc1 8 4 true) (c1 false 7#5 0#2 false))
     ([0x1200000#25, 0x1200020#25, 0x1200040#25, 0x1200060#25, 0x1200080#25, 0x12000E0#25].all fun w =>
       ctrl (put s w) == some (c1 false 1#5 0#2 false)) = true ∧
     ctrl (put s 0x13FFFFF#25) = some (c1 false 0x1F#5 0#2 false) ∧ ctrl (put s 0x14000FE#25) = some (c1 false 7#5 2#2 false) ∧
     ctrl (put s 0x1600001#25) = some (c1 false 7#5 0#2 true) ∧ ctrl (put s 0x17000FE#25) = some (c1 false 7#5 0#2 false)) := by
  decide

/-- Rows 7 to 11, 13, 14, upper window. -/
theorem test_mbc1_upper_window :
    (let at8 := fun c => at_ (blk (par .mbc1 8 4 true) c)
     let at64 := fun c => at_ (blk (par .mbc1 64 4 true) c)
     got (put (at8 (c1 false 5#5 0#2 false)) 0x0400000#25) = some (.byte 0x55#8) ∧
     got (put (at8 (c1 false 0x12#5 0#2 false)) 0x0400000#25) = some (.byte 0x22#8) ∧
     got (put (at_ (blk (par .mbc1 16 4 true) (c1 false 0x10#5 0#2 false))) 0x0400000#25) = some (.byte 0x00#8) ∧
     got (put (at64 (c1 false 1#5 1#2 true)) 0x0400000#25) = some (.byte 0x31#8) ∧
     got (put (at64 (c1 false 1#5 1#2 false)) 0x0400000#25) = some (.byte 0x31#8) ∧
     got (put (at_ (blk (par .mbc1 128 4 true) (c1 false 0x1F#5 3#2 false))) 0x07FFF00#25) = some (.byte 0xAD#8)) := by decide

/-- Rows 9, 11, 13, lower window; 2.2 row 14. -/
theorem test_mbc1_lower_window :
    got (put (at_ (blk (par .mbc1 8 4 true) (c1 false 0x12#5 1#2 true))) 0x0000000#25) = some (.byte 0x00#8) ∧
    got (put (at_ (blk (par .mbc1 64 4 true) (c1 false 1#5 1#2 true))) 0x0000000#25) = some (.byte 0x20#8) ∧
    got (put (at_ { blk (par .mbc1 64 4 true) (c1 false 1#5 1#2 true) with bootOff := false }) 0x0010000#25)
      = some (.byte 0x21#8) ∧
    got (put (at_ (blk (par .mbc1 64 4 true) (c1 false 1#5 1#2 false))) 0x0000000#25) = some (.byte 0x00#8) := by decide

/-- Rows 15 to 19. -/
theorem test_mbc1_ram :
    got (put (at_ (blk (par .mbc1 8 4 true) (c1 false 1#5 0#2 false))) 0x0A00000#25) = some (.byte 0xFF#8) ∧
    got (put (at_ (blk (par .mbc1 8 0 false) (c1 true 1#5 0#2 false))) 0x0A00000#25) = some (.byte 0xFF#8) ∧
    ram (put (at_ (blk (par .mbc1 8 4 true) (c1 true 1#5 2#2 true))) 0x1A01077#25) = some [(0x4010, 0x77#8)] ∧
    got (put (at_ (blk (par .mbc1 8 4 true) (c1 true 1#5 2#2 true) [(0x4010, 0x77#8)])) 0x0A01000#25) = some (.byte 0x77#8) ∧
    got (put (at_ (blk (par .mbc1 8 4 true) (c1 true 1#5 2#2 false) [(0x4010, 0x77#8)])) 0x0A01000#25) = some (.byte 0x00#8) ∧
    ram (put (at_ (blk (par .mbc1 8 1 true) (c1 true 1#5 3#2 true))) 0x1BFFF42#25) = some [(0x1FFF, 0x42#8)] := by decide

/-! ### MBC2 (2.5) -/

/-- Rows 2 to 4, 7. -/
theorem test_mbc2_registers :
    (let s := at_ (blk (par .mbc2 16 1 true) (.mbc2 ⟨false, 5#4⟩))
     ([0x100000A#25, 0x120000A#25, 0x13E000A#25].all fun w => ctrl (put s w) == some (.mbc2 ⟨true, 5#4⟩)) = true ∧
     ([0x1010007#25, 0x1210007#25, 0x13FFF07#25].all fun w => ctrl (put s w) == some (.mbc2 ⟨false, 7#4⟩)) = true ∧
     ([0x1010000#25, 0x1010010#25, 0x10100F0#25].all fun w => ctrl (put s w) == some (.mbc2 ⟨false, 1#4⟩)) = true ∧
     ctrl (put s 0x17FFF0A#25) = some (.mbc2 ⟨false, 5#4⟩)) := by decide

/-- Rows 5 and 6; R174. -/
theorem test_mbc2_rom :
    got (put (at_ (blk (par .mbc2 16 1 true) (.mbc2 ⟨false, 7#4⟩))) 0x0400000#25) = some (.byte 0x77#8) ∧
    got (put (at_ (blk (par .mbc2 16 1 true) (.mbc2 ⟨false, 0xF#4⟩))) 0x07FFF00#25) = some (.byte 0x3D#8) ∧
    got (put (at_ (blk (par .mbc2 16 1 true) (.mbc2 ⟨false, 7#4⟩))) 0x0010000#25) = some (.byte 0x01#8) := by decide

/-- Rows 1, 8 to 11. -/
theorem test_mbc2_ram :
    got (put (at_ (blk (par .mbc2 16 1 true) (.mbc2 ⟨false, 1#4⟩))) 0x0A00500#25) = some (.byte 0xFF#8) ∧
    got (put (at_ (blk (par .mbc2 16 1 true) (.mbc2 ⟨true, 1#4⟩))) 0x0A00500#25) = some (.byte 0xF0#8) ∧
    ram (put (at_ (blk (par .mbc2 16 1 true) (.mbc2 ⟨true, 1#4⟩))) 0x1A20512#25) = some [(5, 0x02#8)] ∧
    got (put (at_ (blk (par .mbc2 16 1 true) (.mbc2 ⟨true, 1#4⟩) [(5, 0x02#8)])) 0x0BE0500#25) = some (.byte 0xF2#8) ∧
    ram (put (at_ (blk (par .mbc2 16 1 true) (.mbc2 ⟨true, 1#4⟩))) 0x1A1FFFF#25) = some [(0x1FF, 0x0F#8)] := by decide

/-- Row 12. -/
theorem test_mbc2_save :
    bat (put (at_ (blk (par .mbc2 16 1 true) (.mbc2 ⟨true, 1#4⟩) [(5, 0x02#8)])) 0x13E0000#25) =
      some (.file { bRam := { size := 0x2000, cells := [(5, 0x02#8)] }, bClock := { size := 44, cells := [] },
                    clockPresent := false, dirty := true }) := by decide

/-! ### MBC3 (2.6) -/

/-- An RTC that has run since `start` with this offset. -/
def running (start offset : Int) : Rtc := ⟨start, offset, false, 0, 0#8, 0#8, 0#8, 0#9⟩

/-- An MBC3 block with RAM enabled and `sel` chosen. -/
def blk3 (sel : BitVec 4) (k : Rtc) : Block := blk (par .mbc3 4 4 true) (.mbc3 ⟨true, 1#7, sel, 0xFF#8⟩ k)

/-- Rows 1, 2, 6. -/
theorem test_mbc3_registers :
    (let s := at_ (blk (par .mbc3 4 4 true) (.mbc3 ⟨false, 5#7, 1#4, 0xFF#8⟩ (running 0 0)))
     let bank := fun n => some (Ctrl.mbc3 ⟨false, n, 1#4, 0xFF#8⟩ (running 0 0))
     ctrl (put s 0x1200080#25) = bank 1#7 ∧ ctrl (put s 0x1200020#25) = bank 0x20#7 ∧ ctrl (put s 0x12000FF#25) = bank 0x7F#7 ∧
     ctrl (put s 0x14000F2#25) = some (.mbc3 ⟨false, 5#7, 2#4, 0xFF#8⟩ (running 0 0)) ∧
     ctrl (put s 0x15FFF0D#25) = some (.mbc3 ⟨false, 5#7, 0xD#4, 0xFF#8⟩ (running 0 0))) := by decide

/-- Rows 3 to 5. -/
theorem test_mbc3_rom :
    got (put (at_ (blk (par .mbc3 128 4 true) (.mbc3 ⟨false, 0x45#7, 0#4, 0xFF#8⟩ (running 0 0)))) 0x07FFF00#25)
      = some (.byte 0xD3#8) ∧
    got (put (at_ (blk (par .mbc3 64 4 true) (.mbc3 ⟨false, 0x45#7, 0#4, 0xFF#8⟩ (running 0 0)))) 0x0400000#25)
      = some (.byte 0x55#8) ∧
    got (put (at_ (blk (par .mbc3 64 4 true) (.mbc3 ⟨false, 0x45#7, 0#4, 0xFF#8⟩ (running 0 0)))) 0x0010000#25)
      = some (.byte 0x01#8) := by decide

/-- Rows 7 to 12. -/
theorem test_mbc3_ram_window :
    ram (put (at_ (blk3 3#4 (running 0 0))) 0x1BFFF11#25) = some [(0x7FFF, 0x11#8)] ∧
    ram (put (at_ (blk (par .mbc3 4 1 true) (.mbc3 ⟨true, 1#7, 3#4, 0xFF#8⟩ (running 0 0)))) 0x1A00022#25)
      = some [(0, 0x22#8)] ∧
    got (put (at_ (blk (par .mbc3 4 4 true) (.mbc3 ⟨true, 1#7, 2#4, 0xFF#8⟩ (running 0 0)) [(0x4000, 0x66#8)])) 0x0A00000#25)
      = some (.byte 0x66#8) ∧
    got (put (at_ (blk (par .mbc3 4 0 true) (.mbc3 ⟨true, 1#7, 0#4, 0xFF#8⟩ (running 0 0)))) 0x0A00000#25)
      = some (.byte 0xFF#8) ∧
    got (put (at_ (blk3 5#4 (running 0 0))) 0x0A00000#25) = some (.byte 0xFF#8) ∧
    ram (put (at_ (blk3 0xD#4 (running 0 0))) 0x1A00012#25) = some [] := by decide

/-- Rows 14 and 15 and the last table of 2.6: 0x01 directly after 0x00, under both policies. -/
theorem test_mbc3_latch :
    (let b := fun pol last start => blk { par .mbc3 4 4 true with latchPolicy := pol }
       (.mbc3 ⟨false, 1#7, 0#4, last⟩ { running 0 0 with latchStart := start })
     let since := fun o => (clock o).map Rtc.latchStart
     since (put (at_ (b .toggle 0xFF#8 0) 5000) 0x1600001#25) = some 0 ∧
     since (put (at_ (b .toggle 0x02#8 0) 5002) 0x1600001#25) = some 0 ∧
     since (put (at_ (b .toggle 0x00#8 0) 5001) 0x17FFF01#25) = some 5001 ∧
     since (put (at_ (b .toggle 0x00#8 5001) 5003) 0x1600001#25) = some 0 ∧
     since (put (at_ (b .relatch 0x00#8 5001) 5003) 0x1600001#25) = some 5003 ∧
     ctrl (put (at_ (b .toggle 0x00#8 0) 5001) 0x1600081#25) = ctrl (.next (at_ (b .toggle 0x81#8 0)))) := by decide

/-- Row 13 and 2.8.1: the registers of a clock time, read through the window. -/
theorem test_mbc3_clock_reads :
    (let rd := fun (sel : BitVec 4) (t : Int) => got (put (at_ (blk3 sel (running 1000 t))) 0x0A12300#25)
     rd 8#4 3725 = some (.byte 5#8) ∧ rd 9#4 3725 = some (.byte 2#8) ∧ rd 0xA#4 3725 = some (.byte 1#8) ∧
     rd 0xB#4 25920000 = some (.byte 0x2C#8) ∧ rd 0xC#4 25920000 = some (.byte 0x01#8) ∧
     rd 0xC#4 44236799 = some (.byte 0x01#8) ∧ rd 0xC#4 44236800 = some (.byte 0x80#8) ∧
     rd 8#4 (-1) = some (.byte 59#8) ∧ rd 0xB#4 (-1) = some (.byte 0xFF#8) ∧ rd 0xC#4 88732807 = some (.byte 0x80#8)) := by decide

/-- The setters of 2.8.4. -/
theorem test_mbc3_clock_writes :
    (let halted : Rtc := { running 1000 0 with halt := true, haltDays := 0x100#9 }
     clock (put (at_ (blk3 8#4 (running 1000 0))) 0x1A0001E#25) = some (running 1000 0) ∧
     clock (put (at_ (blk3 8#4 halted)) 0x1A000FF#25) = some { halted with haltSeconds := 255#8 } ∧
     clock (put (at_ (blk3 9#4 halted)) 0x1A0003B#25) = some { halted with haltMinutes := 59#8 } ∧
     clock (put (at_ (blk3 0xA#4 halted)) 0x1A00017#25) = some { halted with haltHours := 23#8 } ∧
     clock (put (at_ (blk3 0xB#4 halted)) 0x1A0002C#25) = some { halted with haltDays := 0x12C#9 }) := by decide

/-- Cases a to c of 2.8.4. -/
theorem test_mbc3_day_high_halt :
    clock (put (at_ (blk3 0xC#4 (running 1000 44236805))) 0x1A00040#25) =
      some { running 1000 5 with halt := true, haltSeconds := 5#8 } ∧
    clock (put (at_ (blk3 0xC#4 (running 1000 0))) 0x1A00041#25) = some { running 1000 0 with halt := true } ∧
    clock (put (at_ (blk3 0xC#4 { running 1000 0 with halt := true, haltDays := 0x0AA#9 }) 2000) 0x1A00001#25) =
      some { running 2000 36806400 with haltDays := 0x1AA#9 } := by decide

/-- Cases d to f of 2.8.4. -/
theorem test_mbc3_day_high_carry :
    (let halted : Rtc := { running 1000 44236805 with halt := true, haltSeconds := 5#8 }
     clock (put (at_ (blk3 0xC#4 halted)) 0x1A000C0#25) = some halted ∧
     clock (put (at_ (blk3 0xC#4 (running 1000 44236805))) 0x1A00080#25) = some (running 1000 44236805) ∧
     clock (put (at_ (blk3 0xC#4 (running 1000 44236805))) 0x1A00000#25) = some (running 1000 5)) := by decide

/-! ### MBC5 (2.7) -/

/-- MBC5 registers in the order of R28. -/
def c5 (en : Bool) (rom : BitVec 9) (ram : BitVec 4) : Ctrl := .mbc5 ⟨en, rom, ram⟩

/-- Rows 2 to 4, 8, 9, 14. -/
theorem test_mbc5_registers :
    (let s := fun n => at_ (blk (par .mbc5 64 4 true) (c5 false n 0#4))
     ctrl (put (s 0x001#9) 0x1200000#25) = some (c5 false 0#9 0#4) ∧
     ctrl (put (s 0x034#9) 0x1300001#25) = some (c5 false 0x134#9 0#4) ∧
     ctrl (put (s 0x134#9) 0x13FFFFE#25) = some (c5 false 0x034#9 0#4) ∧
     ctrl (put (s 0x134#9) 0x12FFFFF#25) = some (c5 false 0x1FF#9 0#4) ∧
     ctrl (put (s 1#9) 0x15FFFF6#25) = some (c5 false 1#9 6#4) ∧
     ctrl (put (s 1#9) 0x17FFFFF#25) = some (c5 false 1#9 0#4) ∧
     ctrl (put (s 1#9) 0x100003A#25) = some (c5 true 1#9 0#4)) := by decide

/-- Rows 2, 5 to 7. -/
theorem test_mbc5_rom :
    (let s := fun banks n => at_ (blk (par .mbc5 banks 4 true) (c5 false n 0#4))
     got (put (s 64 0#9) 0x0400000#25) = some (.byte 0x00#8) ∧ got (put (s 512 0x134#9) 0x0400000#25) = some (.byte 0x74#8) ∧
     got (put (s 64 0x134#9) 0x0400000#25) = some (.byte 0x74#8) ∧
     got (put (s 64 0x134#9) 0x0010000#25) = some (.byte 0x01#8)) := by decide

/-- Rows 10 to 13. -/
theorem test_mbc5_ram :
    got (put (at_ (blk (par .mbc5 64 16 true) (c5 true 1#9 15#4) [(0x1E000, 0x5C#8)])) 0x0A00000#25) = some (.byte 0x5C#8) ∧
    ram (put (at_ (blk (par .mbc5 64 4 true) (c5 true 1#9 6#4))) 0x1A00199#25) = some [(0x4001, 0x99#8)] ∧
    ram (put (at_ (blk (par .mbc5 64 4 true) (c5 false 1#9 6#4))) 0x1A00112#25) = some [] ∧
    got (put (at_ (blk (par .mbc5 64 0 false) (c5 true 1#9 0#4))) 0x0A00000#25) = some (.byte 0xFF#8) := by decide

/-! ### The clock (2.8) -/

/-- 2.8.2: elapsed time clamped, the latch instant as the basis. -/
theorem test_clock_time :
    (let k := running 1000000 100
     k.readTime 1000 1000999 = 100 ∧ k.readTime 1000 1001000 = 101 ∧ k.readTime 1000 999000 = 100 ∧
     ({ k with latchStart := 1005000 } : Rtc).readTime 1000 1999999 = 105 ∧
     ({ k with latchStart := 500000 } : Rtc).readTime 1000 1999999 = 100) := by decide

/-- 2.8.3. -/
theorem test_clear_overflow :
    (running 1000 88732807).clearCounterOverflow 1000 1000 = running 1000 259207 ∧
    (running 1000 44236799).clearCounterOverflow 1000 2500 = running 1000 (-1) ∧
    (running 1000 100).clearCounterOverflow 1000 1000 = running 1000 100 ∧
    ({ running 1000 44236790 with latchStart := 2000 } : Rtc).clearCounterOverflow 1000 60000 =
      { running 1000 44236790 with latchStart := 2000 } := by decide

/-- 2.8.5: the vector, the block, and the way back. -/
theorem test_serialize :
    (running 1000000 25923725).serialize 1000 1002500 = [7, 2, 1, 44, 1, 7, 2, 1, 44, 1, 1002] ∧
    (clockBlock [7, 2, 1, 44, 1, 7, 2, 1, 44, 1, 1002]).cells =
      [(0, 0x07#8), (4, 0x02#8), (8, 0x01#8), (12, 0x2C#8), (16, 0x01#8), (20, 0x07#8), (24, 0x02#8), (28, 0x01#8),
       (32, 0x2C#8), (36, 0x01#8), (40, 0xEA#8), (41, 0x03#8)] ∧
    elementBytes 1700005003#32 = [0x8B#8, 0x04#8, 0x54#8, 0x65#8] := by decide

/-- 2.8.5, the three vectors. -/
theorem test_deserialize :
    Rtc.deserialize 1000 [7, 2, 1, 44, 1, 7, 2, 1, 44, 1, 1002] = ⟨1002000, 25923727, false, 0, 7#8, 2#8, 1#8, 0x12C#9⟩ ∧
    Rtc.deserialize 1000 [5, 0, 0, 0, 0x80, 0, 0, 0, 0, 0, 50] = ⟨50000, 44236805, false, 0, 5#8, 0#8, 0#8, 0#9⟩ ∧
    Rtc.deserialize 1000 [59, 59, 23, 0xFF, 0x41, 0, 0, 0, 0, 0, 50] = ⟨50000, 44236799, true, 0, 59#8, 59#8, 23#8, 0x1FF#9⟩ := by
  decide

/-- 2.8.6 and its exception 2; R414 (an out-of-range resume). -/
theorem test_halt_toggle :
    ((running 1000 100000).setHalt 1000 50000 true).setHalt 1000 50000 false =
      ⟨50000, 100049, false, 0, 29#8, 47#8, 3#8, 1#9⟩ ∧
    (({ running 1000 0 with latchStart := 11000 } : Rtc).setHalt 1000 61000 true).setHalt 1000 61000 false =
      ⟨61000, 60, false, 11000, 0#8, 1#8, 0#8, 0#9⟩ ∧
    (({ running 1000 0 with halt := true, haltSeconds := 75#8 } : Rtc).setHalt 1000 9000 false).getSeconds 1000 9000 = 15#8 := by
  decide

/-! ### Save, load, flush (2.9) -/

/-- POWER_ON with these parameters, this store and the block off. -/
def boot (p : Params) (f : Option Buf) (now : Nat) : Out :=
  ask { at_ (blk p .rom) now with block := none } 0b000#3
    { HostArgs.reset with config := .direct p, store := .supplied f }

/-- Rows 1, 2, 4, 5 (store bytes listed where the tests look: the last one that fits is taken, the next is not). -/
theorem test_load_ram :
    ram (boot (par .mbc1 8 1 true) none 9000000) = some [] ∧
    ram (boot (par .mbc1 8 1 true) (some { size := 0x1000, cells := [(0, 0xAB#8), (0xFFF, 0xAB#8)] }) 9000000)
      = some [(0, 0xAB#8), (0xFFF, 0xAB#8)] ∧
    ram (boot (par .mbc1 8 1 true) (some { size := 0x202C, cells := [(0x1FFF, 0xAB#8), (0x2000, 0xCD#8)] }) 9000000)
      = some [(0x1FFF, 0xAB#8)] ∧
    ram (boot (par .mbc1 8 1 false) (some { size := 0x2000, cells := [(0, 0xAB#8)] }) 9000000) = some [] := by decide

/-- The block of 2.8.5, running vector, as the cells of a store that has it at offset `n`. -/
def clockCells (n : Nat) : List Host.Cell :=
  [(n, 0x07#8), (n + 4, 0x02#8), (n + 8, 0x01#8), (n + 12, 0x2C#8), (n + 16, 0x01#8), (n + 20, 0x07#8), (n + 24, 0x02#8),
   (n + 28, 0x01#8), (n + 32, 0x2C#8), (n + 36, 0x01#8), (n + 40, 0xEA#8), (n + 41, 0x03#8)]

/-- Rows 7, 8, 10. -/
theorem test_load_clock :
    clock (boot (par .mbc3 4 1 true) (some { size := 0x202B, cells := clockCells 0x2000 }) 9000000) = some (running 9000000 0) ∧
    clock (boot (par .mbc3 4 1 true) (some { size := 0x2032, cells := clockCells 0x2000 }) 9000000)
      = some ⟨1002000, 25923727, false, 0, 7#8, 2#8, 1#8, 0x12C#9⟩ ∧
    clock (boot (par .mbc3 4 0 true) (some { size := 44, cells := clockCells 0 }) 9000000)
      = some ⟨1002000, 25923727, false, 0, 7#8, 2#8, 1#8, 0x12C#9⟩ := by decide

/-- Rows 13, 16, 18 and the image length of an MBC3 save; `dirty` and `clockPresent` as given. -/
def flushState (v : Variant) (clock dirty : Bool) : State :=
  at_ { blk (par v 8 1 true) (Ctrl.powerOn v 0) [(0, 0x43#8)] with
    bat := .file { bRam := { size := 0x2000, cells := [(0, 0x42#8)] }, bClock := { size := 44, cells := clockCells 0 },
                   clockPresent := clock, dirty := dirty } }

theorem test_flush :
    file (ask (flushState .mbc1 false false) 0b001#3) = some none ∧
    file (ask (flushState .mbc1 false true) 0b001#3) = some (some { size := 0x2000, cells := [(0, 0x42#8)] }) ∧
    file (ask (flushState .mbc3 true true) 0b001#3)
      = some (some { size := 8236, cells := (0, 0x42#8) :: clockCells 0x2000 }) ∧
    bat (ask (flushState .mbc3 true true) 0b001#3) = bat (.next (flushState .mbc3 false false)) := by decide

/-- Row 18 and 2.12 rows 2, 3: a refused store. -/
theorem test_flush_failure :
    got (ask (flushState .mbc1 false true) 0b001#3 { HostArgs.reset with ioOk := false }) = some (.fault .ioFailure) ∧
    bat (ask (flushState .mbc1 false true) 0b001#3 { HostArgs.reset with ioOk := false })
      = bat (.next (flushState .mbc1 false true)) ∧
    got (ask (flushState .mbc1 false false) 0b001#3 { HostArgs.reset with ioOk := false }) = some .done := by decide

/-- Program 2 step 31: the save of an MBC3 carries the clock. -/
theorem test_mbc3_save :
    bat (put (at_ (blk (par .mbc3 4 1 true) (.mbc3 ⟨true, 1#7, 0xC#4, 0xFF#8⟩ (running 1700005000000 (-1)))) 1700005003000)
        0x1000000#25) =
      some (.file { bRam := { size := 0x2000, cells := [] },
                    bClock := { size := 44, cells := [(0, 0x02#8), (20, 0x02#8), (40, 0x8B#8), (41, 0x04#8), (42, 0x54#8),
                      (43, 0x65#8)] },
                    clockPresent := true, dirty := true }) := by decide

/-! ### Snapshot and restore (2.10) -/

/-- RESTORE of the snapshot of `b` on the machine `s`. -/
def restoreOf (b : Block) (s : State) : Out :=
  ask s 0b011#3 { HostArgs.reset with snap := { bootOff := b.bootOff, ctrl := b.ctrl, ram := b.ram, bat := b.bat } }

/-- Rows 2, 3, 8: RAM, the overlay and `dirty` come back. -/
theorem test_restore :
    (let b := { blk (par .mbc5 64 4 true) (c5 true 0#9 2#4) [(0x4001, 0x99#8)] with bootOff := false }
     ram (restoreOf b (at_ (blk (par .mbc5 64 4 true) (c5 true 0#9 0#4) [(1, 0x11#8)]))) = some [(0x4001, 0x99#8)] ∧
     ctrl (restoreOf b (at_ (blk (par .mbc5 64 4 true) (c5 true 0#9 0#4)))) = some (c5 true 0#9 2#4) ∧
     got (ask (at_ b) 0b010#3) = some (.snapshot ⟨false, c5 true 0#9 2#4, ⟨0x8000, [(0x4001, 0x99#8)]⟩,
       cleanBattery (par .mbc5 64 4 true)⟩)) := by decide

/-- Rows 4 to 6. -/
theorem test_restore_faults :
    got (restoreOf (blk (par .mbc1 8 4 true) (c1 false 1#5 0#2 false)) (at_ (blk (par .mbc5 8 4 true) (c5 false 1#9 0#4))))
      = some (.fault (.snapshotTypeMismatch .ctrl)) ∧
    got (restoreOf (blk (par .mbc1 8 4 false) (c1 false 1#5 0#2 false)) (at_ (blk (par .mbc1 8 4 true) (c1 false 1#5 0#2 false))))
      = some (.fault (.snapshotTypeMismatch .bat)) ∧
    got (restoreOf (blk (par .mbc1 8 1 true) (c1 false 1#5 0#2 false)) (at_ (blk (par .mbc1 8 4 true) (c1 false 1#5 0#2 false))))
      = some (.fault (.snapshotLengthMismatch .ram)) := by decide

/-! ### Power and configuration (2.11, 2.12) -/

/-- A header with this type, ROM code and RAM code on an image of `size` bytes. -/
def head (size : Nat) (t r m : Byte) : CartConfig :=
  .header { size := size, cells := [(0x0147, t), (0x0148, r), (0x0149, m)] } .automatic Buf.resetDmgBoot Buf.resetCgbBoot {}

/-- What the parameters of a configuration are: variant, ROM banks, RAM banks, battery; or the fault. -/
def resolved (c : CartConfig) : Except SpecFault (Variant × Nat × Nat × Bool) :=
  (resolveConfig c).map fun p => (p.variant, p.romBanks, p.ramBanks, p.hasBattery)

/-- 2.11.3 rows 1 to 14 (some). -/
theorem test_resolution :
    (∀ p ∈ [((8, 0x03#8, 0x02#8, 0x03#8), (Variant.mbc1, 8, 4, true)), ((2, 0x02#8, 0x00#8, 0x00#8), (.mbc1, 2, 1, false)),
        ((2, 0x01#8, 0x00#8, 0x03#8), (.mbc1, 2, 4, false)), ((16, 0x06#8, 0x03#8, 0x03#8), (.mbc2, 16, 1, true)),
        ((2, 0x09#8, 0x00#8, 0x02#8), (.rom, 2, 1, true)), ((64, 0x0F#8, 0x05#8, 0x00#8), (.mbc3, 64, 0, true)),
        ((512, 0x1B#8, 0x08#8, 0x04#8), (.mbc5, 512, 16, true))],
      (match resolved (head (p.1.1 * 0x4000) p.1.2.1 p.1.2.2.1 p.1.2.2.2) with
        | .ok q => decide (q = p.2)
        | .error _ => false) = true) := by decide

/-- 2.11.3 rows 7, 15 to 20. -/
theorem test_resolution_faults :
    (∀ p ∈ [((0x40000, 0x06#8, 0x03#8, 0x06#8), SpecFault.configUnsupportedRamSize 0x06#8),
        ((0x8000, 0x04#8, 0x09#8, 0x06#8), .configUnsupportedType), ((0x8000, 0x22#8, 0x00#8, 0x00#8), .configUnsupportedType),
        ((0x8000, 0x01#8, 0x09#8, 0x06#8), .configUnsupportedRomSize 0x09#8), ((0x10000, 0x01#8, 0x00#8, 0x00#8), .configRomLength),
        ((0x0149, 0x01#8, 0x00#8, 0x00#8), .configRomLength)],
      (match resolved (head p.1.1 p.1.2.1 p.1.2.2.1 p.1.2.2.2) with
        | .ok _ => false
        | .error f => decide (f = p.2)) = true) := by decide

/-- 2.12 rows 4 and 10, R381: no block after a POWER_ON that faults; POWER_OFF. -/
theorem test_power :
    (match ask State.reset 0b000#3 { HostArgs.reset with ioOk := false } with
      | .next t => some (t.result, t.block)
      | _ => none) = some (.fault .ioFailure, none) ∧
    (match ask State.reset 0b000#3 { HostArgs.reset with config := head 0x8000 0x03#8 0x02#8 0x03#8 } with
      | .next t => some (t.result, t.block)
      | _ => none) = some (.fault .configRomLength, none) ∧
    (match ask State.reset 0b100#3 with
      | .next t => some (t.result, t.block)
      | _ => none) = some (.done, none) := by decide

/-- 2.12 row 1. -/
theorem test_unclaimed :
    got (put State.reset 0x0800000#25) = some (.fault (.unclaimedAddress 0x8000#16)) ∧
    got (put State.reset 0x1FF5100#25) = some (.fault (.unclaimedAddress 0xFF51#16)) := by decide

/-- The reset state is what POWER_ON with the reset arguments, no store and `now = 1000` leaves (R36, log 2), but for the
report. -/
theorem test_reset_is_power_on :
    (match ask { State.reset with block := none } 0b000#3 with
      | .next t => some { t with result := .none }
      | _ => none) = some State.reset := by decide

/-! ### Witnesses: data that meets the hypotheses of each obligation, one set for each clause at its bounds -/

/-- The outcome is a next state. -/
def isNext : Out → Bool
  | .next _ => true
  | _ => false

/-- The next state, if there is one. -/
def after : Out → State
  | .next t => t
  | _ => State.reset

theorem eq_next_after : ∀ {o : Out}, isNext o = true → o = .next (after o)
  | .next _, _ => rfl

/-- DecodeOfEncodeIsIdentity: operations of every family at the bounds of their windows, in contexts where they exist. -/
theorem witness_DecodeOfEncodeIsIdentity :
    (∀ p ∈ [(plainCtx .rom, Instr.ff50Wr 0xFF#8), ({ plainCtx .rom with bootOff := false }, .bootRd 0x00FF#16),
        ({ plainCtx .mbc5 with bootOff := false, cgb := true }, .bootcRdC 0x08FF#16), (plainCtx .rom, .romRamWr 0xBFFF#16 0xFF#8),
        (plainCtx .mbc1, .m1ModeWr 0x7FFF#16 0x01#8), ({ plainCtx .mbc1 with bootOff := false }, .m1Rom0Rd 0x0100#16),
        (plainCtx .mbc2, .m2RombWr 0x3FFF#16 0x0F#8), (windowCtx 0xC#4, .m3RtcdhWr 0xBFFF#16 0x80#8),
        (windowCtx 0x3#4, .m3RamRd 0xA000#16), (windowCtx 0xD#4, .m3NoneRd 0xA000#16), (plainCtx .mbc5, .m5Romb1Wr 0x3000#16 0x01#8),
        (plainCtx .mbc5, .restore)],
      p.2.wf = true ∧ p.2.inForce p.1 = true) := by decide

theorem witness_DecodedOperationIsInForce :
    decode (some (plainCtx .mbc1)) (.t 0x04000AB#25) = .instr (.m1RomxRd 0x4000#16) ∧
    decode (some (plainCtx .mbc2)) (.t 0x13FFF07#25) = .instr (.m2RombWr 0x3FFF#16 0x07#8) := by decide

/-- ExactlyClaimedAddressesDecode, the third clause. -/
theorem witness_ExactlyClaimedAddressesDecode :
    accepts (TWord.addr 0x0800000#25) = false ∧ accepts (TWord.addr 0x1FF4FAA#25) = false := by decide

/-- HostCodesDecode, the last clause. -/
theorem witness_HostCodesDecode : 5 ≤ (0b101#3 : HCode).toNat ∧ 5 ≤ (0b111#3 : HCode).toNat := by decide

theorem witness_OverlayTakesReadsOnly :
    ((0x00FF#16).toNat ≤ 0x00FF ∧ DecodeCtx.reset.bootOff = false) ∧
    (0x0200 ≤ (0x0200#16).toNat ∧ (0x0200#16).toNat ≤ 0x08FF ∧ 0x0200 ≤ (0x08FF#16).toNat ∧ (0x08FF#16).toNat ≤ 0x08FF ∧
      ({ DecodeCtx.reset with cgb := true } : DecodeCtx).cgb = true) ∧
    (0x0100 ≤ (0x0100#16).toNat ∧ (0x0100#16).toNat ≤ 0x01FF ∧ 0x0100 ≤ (0x01FF#16).toNat ∧ (0x01FF#16).toNat ≤ 0x01FF) := by
  decide

/-- StepRunsDecodedOperation: a waiting transaction, a waiting host operation, nothing waiting. -/
theorem witness_StepRunsDecodedOperation :
    (let r : Request := { now := 7, op := .bus 0x1FF5001#25 }
     let s : State := { State.reset with pending := [r] }
     s.pending = r :: [] ∧ decode (s.block.map Block.ctx) r.op.word = .instr (.ff50Wr 0x01#8)) ∧
    (let r : Request := { now := 7, op := .host 0b100#3 HostArgs.reset }
     let s : State := { State.reset with block := none, pending := [r, r] }
     s.pending = r :: [r] ∧ decode (s.block.map Block.ctx) r.op.word = .instr .powerOff) ∧
    State.reset.pending = [] := by decide

theorem witness_UnclaimedAddressIsReported :
    ([0x0800000#25, 0x19FFFFF#25, 0x0C00000#25, 0x0FF4F00#25, 0x0FF5100#25, 0x1FFFFFF#25].all fun w =>
      let s : State := { State.reset with pending := [{ now := 5, op := .bus w }] }
      s.block == some Block.reset && s.pending == [{ now := 5, op := .bus w }] &&
        (decide (0x8000 ≤ (TWord.addr w).toNat ∧ (TWord.addr w).toNat ≤ 0x9FFF) || decide (0xC000 ≤ (TWord.addr w).toNat ∧ (TWord.addr w).toNat ≤ 0xFF4F) ||
          decide (0xFF51 ≤ (TWord.addr w).toNat))) = true := by decide

theorem witness_DisableRegister : State.reset.block = some Block.reset := by decide

/-- A colour block with the overlay visible. -/
def colourBlock : Block :=
  { blk { par .mbc5 8 4 true with cgb := true, boot := testBoot true } (c5 false 1#9 0#4) with bootOff := false }

theorem witness_BootWindowReads :
    ((at_ Block.reset).block = some Block.reset ∧ Block.reset.wf = true ∧ Block.reset.bootOff = false) ∧
    ((at_ colourBlock).block = some colourBlock ∧ colourBlock.wf = true ∧ colourBlock.bootOff = false ∧
      colourBlock.params.cgb = true ∧ 0x0200 ≤ (0x0200#16).toNat ∧ (0x08FF#16).toNat ≤ 0x08FF) := by decide

/-- The blocks of the witnesses: one of each variant. -/
def blockRom (ram : Nat) : Block := blk (par .rom 2 ram true) .rom

/-- See `blockRom`. -/
def block1 (en : Bool) (ram : Nat) : Block := blk (par .mbc1 8 ram true) (c1 en 1#5 2#2 true)

/-- See `blockRom`. -/
def block2 (en : Bool) : Block := blk (par .mbc2 16 1 true) (.mbc2 ⟨en, 7#4⟩)

/-- See `blockRom`. -/
def block5 (en : Bool) (ram : Nat) : Block := blk (par .mbc5 64 ram true) (c5 en 0x134#9 6#4)

theorem witness_BusNeverRestoresOverlay :
    ∃ t, Instr.isBus (.m1ModeWr 0x6000#16 0x01#8) = true ∧ (at_ (block1 true 4)).block = some (block1 true 4) ∧
      (block1 true 4).bootOff = true ∧ exec (.m1ModeWr 0x6000#16 0x01#8) (at_ (block1 true 4)) = .next t :=
  ⟨_, rfl, rfl, rfl, rfl⟩

/-- BankTranslation: counts above 0, also where the bank number exceeds them. -/
theorem witness_BankTranslation : 0 < (par .mbc1 2 1 true).romBanks ∧ 0 < (par .mbc1 2 1 true).ramBanks := by decide

theorem witness_RomReadsThroughRomBank :
    ((at_ (block2 false)).block = some (block2 false) ∧ (block2 false).wf = true ∧ (block2 false).ctrl = .mbc2 ⟨false, 7#4⟩) ∧
    ((at_ (blk3 0#4 (running 0 0))).block = some (blk3 0#4 (running 0 0)) ∧ (blk3 0#4 (running 0 0)).wf = true ∧
      (blk3 0#4 (running 0 0)).ctrl = .mbc3 ⟨true, 1#7, 0#4, 0xFF#8⟩ (running 0 0)) ∧
    ((at_ (block5 false 4)).block = some (block5 false 4) ∧ (block5 false 4).wf = true ∧
      (block5 false 4).ctrl = .mbc5 ⟨false, 0x134#9, 6#4⟩) := by decide

/-- RomVariantWindows: without RAM and with it. -/
theorem witness_RomVariantWindows :
    ((at_ (blockRom 0)).block = some (blockRom 0) ∧ (blockRom 0).wf = true ∧ (blockRom 0).ctrl = .rom ∧
      (blockRom 0).params.ramBanks = 0) ∧
    ((at_ (blockRom 1)).block = some (blockRom 1) ∧ (blockRom 1).wf = true ∧ (blockRom 1).ctrl = .rom ∧
      (blockRom 1).params.ramBanks ≠ 0) := by decide

/-- Mbc1BankRegisterWrites and Mbc1RomReads. -/
theorem witness_Mbc1BankRegisterWrites_Mbc1RomReads :
    (at_ (block1 false 4)).block = some (block1 false 4) ∧ (block1 false 4).wf = true ∧
      (block1 false 4).ctrl = .mbc1 ⟨false, 1#5, 2#2, true⟩ := by decide

/-- Mbc1RamWindow: disabled, enabled without RAM, enabled with RAM. -/
theorem witness_Mbc1RamWindow :
    ((block1 false 4).wf = true ∧ (block1 false 4).ctrl = .mbc1 ⟨false, 1#5, 2#2, true⟩) ∧
    ((block1 true 0).wf = true ∧ (block1 true 0).ctrl = .mbc1 ⟨true, 1#5, 2#2, true⟩ ∧ (block1 true 0).params.ramBanks = 0) ∧
    ((at_ (block1 true 4)).block = some (block1 true 4) ∧ (block1 true 4).wf = true ∧
      (block1 true 4).ctrl = .mbc1 ⟨true, 1#5, 2#2, true⟩ ∧ (block1 true 4).params.ramBanks ≠ 0) := by decide

/-- Mbc2BankRegisterWrites and Mbc2RamWindow: disabled and enabled. -/
theorem witness_Mbc2BankRegisterWrites_Mbc2RamWindow :
    ((at_ (block2 false)).block = some (block2 false) ∧ (block2 false).wf = true ∧ (block2 false).ctrl = .mbc2 ⟨false, 7#4⟩) ∧
    ((at_ (block2 true)).block = some (block2 true) ∧ (block2 true).wf = true ∧ (block2 true).ctrl = .mbc2 ⟨true, 7#4⟩) := by decide

/-- Mbc3BankRegisterWrites and LatchRegisterWrite: a sequence about to complete, latched and unlatched. -/
theorem witness_Mbc3BankRegisterWrites_LatchRegisterWrite :
    ([(0 : Int), 5001].all fun start =>
      let k : Rtc := { running 0 0 with latchStart := start }
      let b := blk (par .mbc3 4 4 true) (.mbc3 ⟨false, 1#7, 0#4, 0x00#8⟩ k)
      (at_ b).block == some b && b.ctrl == .mbc3 ⟨false, 1#7, 0#4, 0x00#8⟩ k) = true := by decide

/-- Mbc3RamWindow: `sel` 0 and 3 with RAM; disabled; `sel` 3 without RAM; `sel` 4, 7, 13, 15. -/
theorem witness_Mbc3RamWindow :
    ([0x0#4, 0x3#4].all fun sel => (blk3 sel (running 0 0)).wf && decide (sel.toNat ≤ 3) &&
      (blk3 sel (running 0 0)).params.ramBanks != 0 &&
      (blk3 sel (running 0 0)).ctrl == .mbc3 ⟨true, 1#7, sel, 0xFF#8⟩ (running 0 0)) = true ∧
    ([(false, 0x0#4, 4), (true, 0x3#4, 0), (true, 0x4#4, 4), (true, 0x7#4, 4), (true, 0xD#4, 4), (true, 0xF#4, 4)].all fun p =>
      let r : Mbc3 := ⟨p.1, 1#7, p.2.1, 0xFF#8⟩
      let b := blk (par .mbc3 4 p.2.2 true) (.mbc3 r (running 0 0))
      b.wf && b.ctrl == .mbc3 r (running 0 0) && (!r.ramEnable || decide (r.sel.toNat ≤ 3 ∧ b.params.ramBanks = 0) ||
        decide (4 ≤ r.sel.toNat ∧ r.sel.toNat ≤ 7) || decide (13 ≤ r.sel.toNat))) = true := by decide

theorem witness_Mbc3WindowRowsDecode :
    (windowCtx 0x3#4).variant = .mbc3 ∧ 0xA000 ≤ (0xA000#16).toNat ∧ (0xBFFF#16).toNat ≤ 0xBFFF ∧
    (plainCtx .mbc3).ramEnable = false ∧ (windowCtx 0x3#4).ramEnable = true ∧ (windowCtx 0x3#4).sel.toNat ≤ 3 ∧
    0 < (windowCtx 0x3#4).ramBanks ∧ 4 ≤ (windowCtx 0x4#4).sel.toNat ∧ (windowCtx 0x7#4).sel.toNat ≤ 7 ∧
    13 ≤ (windowCtx 0xD#4).sel.toNat ∧ (windowCtx 0x8#4).sel = 0x8#4 ∧ (windowCtx 0xC#4).sel = 0xC#4 := by decide

/-- ClockRegisterReads, ClockRegisterWrites, DayHighWrite: each select code, running and halted. -/
theorem witness_ClockRegisterReads_ClockRegisterWrites_DayHighWrite :
    ([0x8#4, 0x9#4, 0xA#4, 0xB#4, 0xC#4].all fun sel => [false, true].all fun halted =>
      let k : Rtc := { running 0 0 with halt := halted }
      (at_ (blk3 sel k)).block == some (blk3 sel k) && (blk3 sel k).ctrl == .mbc3 ⟨true, 1#7, sel, 0xFF#8⟩ k) = true := by decide

/-- DayHighWrite: the three clocks between its effects, for a write of 0x01 to a halted clock. -/
theorem witness_DayHighWrite :
    ∃ k1 k2 k3 : Rtc, (let k : Rtc := { running 0 0 with halt := true }
      (blk3 0xC#4 k).ctrl = .mbc3 ⟨true, 1#7, 0xC#4, 0xFF#8⟩ k ∧
      k1 = (if k.halt then { k with haltDays := BitVec.ofNat 9 (k.haltDays.toNat % 256 + 256 * ((0x01#8).toNat % 2)) } else k) ∧
      k2 = k1.setHalt (blk3 0xC#4 k).params.tickHz (at_ (blk3 0xC#4 k)).now (decide ((0x01#8).toNat / 64 % 2 = 1)) ∧
      k3 = (if (0x01#8).toNat / 128 = 1 then k2
        else k2.clearCounterOverflow (blk3 0xC#4 k).params.tickHz (at_ (blk3 0xC#4 k)).now)) :=
  ⟨_, _, _, rfl, rfl, rfl, rfl⟩

/-- Mbc5BankRegisterWrites and Mbc5RamWindow: disabled, enabled without RAM, enabled with RAM. -/
theorem witness_Mbc5BankRegisterWrites_Mbc5RamWindow :
    ((block5 false 4).wf = true ∧ (block5 false 4).ctrl = .mbc5 ⟨false, 0x134#9, 6#4⟩) ∧
    ((block5 true 0).wf = true ∧ (block5 true 0).ctrl = .mbc5 ⟨true, 0x134#9, 6#4⟩ ∧ (block5 true 0).params.ramBanks = 0) ∧
    ((at_ (block5 true 16)).block = some (block5 true 16) ∧ (block5 true 16).wf = true ∧
      (block5 true 16).ctrl = .mbc5 ⟨true, 0x134#9, 6#4⟩ ∧ (block5 true 16).params.ramBanks ≠ 0) := by decide

/-- RamEnableWrites: what the battery becomes, with the key and without it. -/
theorem witness_RamEnableWrites :
    ([0xFA#8, 0xA0#8].all fun d =>
      let b := block1 true 4
      let saved : Battery := if d.toNat % 16 = 10 then b.bat else .file
        { bRam := b.ram, bClock := { size := 44, cells := [] }, clockPresent := false, dirty := true }
      saved == (if d.toNat % 16 = 10 then b.bat else
        match b.bat with
        | .null => .null
        | .file m => .file { m with bRam := b.ram, dirty := true })) = true := by decide

/-- RamEnableWrites and Mbc3RamEnableWriteSavesClock: a block of each variant; the key 0xFA (10 modulo 16) and 0xA0. -/
theorem witness_RamEnableWrites_Mbc3RamEnableWriteSavesClock :
    (at_ (block1 true 4)).block = some (block1 true 4) ∧ (block1 true 4).ctrl = .mbc1 ⟨true, 1#5, 2#2, true⟩ ∧
    (block2 true).ctrl = .mbc2 ⟨true, 7#4⟩ ∧ (block5 true 4).ctrl = .mbc5 ⟨true, 0x134#9, 6#4⟩ ∧
    (blk3 0#4 (running 0 0)).ctrl = .mbc3 ⟨true, 1#7, 0#4, 0xFF#8⟩ (running 0 0) ∧
    (0xFA#8).toNat % 16 = 10 ∧ (0xA0#8).toNat % 16 ≠ 10 := by decide

/-- OnlyDisablingWritesSave: a disabling write on a battery block, whose battery then differs. -/
theorem witness_OnlyDisablingWritesSave :
    ∃ t b', Instr.isBus (.m1RamgWr 0x0000#16 0x00#8) = true ∧ (at_ (block1 true 4)).block = some (block1 true 4) ∧
      exec (.m1RamgWr 0x0000#16 0x00#8) (at_ (block1 true 4)) = .next t ∧ t.block = some b' ∧ b'.bat ≠ (block1 true 4).bat :=
  ⟨_, _, rfl, rfl, rfl, rfl, by decide⟩

/-- ClockRegisterValues: the basis and the clock time of a latched clock and of one set backwards. -/
theorem witness_ClockRegisterValues :
    (let k : Rtc := { running 1000 100 with latchStart := 6000 }
     (6000 : Int) = (if k.latchStart = 0 then ((9000 : Nat) : Int) else k.latchStart) ∧
     (105 : Int) = max 0 (6000 - k.clockStart) / ((1000 : Nat) : Int) + k.offsetSec) ∧
    (100 : Int) = max 0 (((500 : Nat) : Int) - (running 1000 100).clockStart) / ((1000 : Nat) : Int)
      + (running 1000 100).offsetSec := by decide

/-- HaltTransitions: both transitions. -/
theorem witness_HaltTransitions :
    (100 : Int) = max 0 (((1000 : Nat) : Int) - (running 1000 100).clockStart) / ((1000 : Nat) : Int)
      + (running 1000 100).offsetSec ∧
    (running 1000 100).halt = false ∧ ({ running 1000 100 with halt := true } : Rtc).halt = true := by decide

/-- ClearOverflowIsTheLoop, the clause on non-negative times: a clock past two periods. -/
theorem witness_ClearOverflowIsTheLoop : 0 ≤ (running 1000 88732807).readTime 1000 1000 := by decide

/-- TimeVectorContents and DeserializeSetsClock: the clock unlatched, the clock of a vector. -/
theorem witness_TimeVectorContents_DeserializeSetsClock :
    running 1000 100 = { ({ running 1000 100 with latchStart := 5000 } : Rtc) with latchStart := 0 } ∧
    (⟨50000, 44236805, false, 0, 5#8, 0#8, 0#8, 0#9⟩ : Rtc) =
      Rtc.deserialize 1000 [5, 0, 0, 0, 0x80, 0, 0, 0, 0, 0, 50] := by decide

/-- ClockBlockBytes, its bounds. -/
theorem witness_ClockBlockBytes :
    ([7, 2, 1, 44, 1, 7, 2, 1, 44, 1, 1002] : List (BitVec 32)).length = 11 ∧ 10 < 11 ∧ 3 < 4 := by decide

/-- ClockSurvivesItsBlock: a running clock; a halted one with its shadows at the bounds. -/
theorem witness_ClockSurvivesItsBlock :
    0 < 1000 ∧ 1002500 / 1000 < 2 ^ 32 ∧ (running 1000000 25923725).latchStart = 0 ∧
      (running 1000000 25923725).halt = false ∧
    (let k : Rtc := ⟨0, 0, true, 0, 59#8, 59#8, 23#8, 511#9⟩
     k.latchStart = 0 ∧ k.haltSeconds.toNat < 60 ∧ k.haltMinutes.toNat < 60 ∧ k.haltHours.toNat < 24) := by decide

theorem witness_HaltToggleKeepsRegisters :
    (running 1000 100000).halt = false ∧ (running 1000 100000).latchStart = 0 := by decide

/-- FlushOutcomes: no battery; clean; dirty with and without the clock; the store accepting and refusing. -/
theorem witness_FlushOutcomes :
    (let b := blk (par .mbc1 8 1 false) (c1 false 1#5 0#2 false)
     (at_ b).block = some b ∧ b.wf = true ∧ b.bat = .null) ∧
    (∀ p ∈ [(Variant.mbc1, false, false), (.mbc1, false, true), (.mbc3, true, true)],
      ((flushState p.1 p.2.1 p.2.2).block.map fun b => b.wf && b.bat == .file
        { bRam := { size := 0x2000, cells := [(0, 0x42#8)] }, bClock := { size := 44, cells := clockCells 0 },
          clockPresent := p.2.1, dirty := p.2.2 }) = some true) ∧
    HostArgs.reset.ioOk = true ∧ ({ HostArgs.reset with ioOk := false } : HostArgs).ioOk = false := by decide

/-- FlushIsIdempotent: a flush that the store accepts and one that it refuses. -/
theorem witness_FlushIsIdempotent :
    (∃ t, exec .flush { flushState .mbc1 false true with args := HostArgs.reset } = .next t) ∧
    ∃ t, exec .flush { flushState .mbc1 false true with args := { HostArgs.reset with ioOk := false } } = .next t :=
  ⟨⟨_, rfl⟩, ⟨_, rfl⟩⟩

/-- SnapshotReturnsState and RestoreOfSnapshotBringsStateBack: a later block of the same parameters. -/
theorem witness_SnapshotReturnsState_RestoreOfSnapshotBringsStateBack :
    ∃ t0 : State, ∃ v : CartSnap, (at_ (block1 true 4)).block = some (block1 true 4) ∧ (block1 true 4).wf = true ∧
      exec .snapshot (at_ (block1 true 4)) = .next t0 ∧ t0.result = .snapshot v ∧
      (at_ (block1 false 4)).block = some (block1 false 4) ∧ (block1 false 4).params = (block1 true 4).params ∧
      ({ at_ (block1 false 4) with args := { HostArgs.reset with snap := v } } : State).args.snap = v :=
  ⟨_, _, rfl, by decide, rfl, rfl, rfl, rfl, rfl⟩

/-- RestoreChecksThenRestores: a snapshot for each check that can fail, and one that passes. `p` is a battery MBC1 with
four RAM banks. -/
theorem witness_RestoreChecksThenRestores :
    (at_ (block1 true 4)).block = some (block1 true 4) ∧
    (let p := (block1 true 4).params
     let good : CartSnap := ⟨true, c1 true 1#5 0#2 false, ⟨0x8000, []⟩, cleanBattery p⟩
     let short : FileBattery := { bRam := { size := 0x2000, cells := [] }, bClock := { size := 44, cells := [] },
                                  clockPresent := false, dirty := false }
     let noClock : FileBattery := { bRam := { size := 0x8000, cells := [] }, bClock := { size := 43, cells := [] },
                                    clockPresent := false, dirty := false }
     ({ good with ctrl := c5 true 1#9 0#4 } : CartSnap).ctrl.variant ≠ p.variant ∧ good.ctrl.variant = p.variant ∧
     ({ good with bat := .null } : CartSnap).bat.isFile ≠ p.hasBattery ∧ good.bat.isFile = p.hasBattery ∧
     ({ good with ram := ⟨0x2000, []⟩ } : CartSnap).ram.size ≠ p.ramBanks * 0x2000 ∧ good.ram.size = p.ramBanks * 0x2000 ∧
     short.bRam.size ≠ p.ramBanks * 0x2000 ∧ noClock.bRam.size = p.ramBanks * 0x2000 ∧ noClock.bClock.size ≠ 44 ∧
     good.bat = .file { bRam := { size := p.ramBanks * 0x2000, cells := [] }, bClock := { size := 44, cells := [] },
                        clockPresent := false, dirty := false }) := by decide

/-- The machine that is off, with POWER_ON arguments that take `p` and this store. -/
def offWith (p : Params) (st : StoreArg) (io : Bool) : State :=
  { State.reset with block := none, args := { HostArgs.reset with config := .direct p, store := st, ioOk := io } }

/-- PowerOnWithoutSaveImage: a battery without a save image, and no battery beside one that cannot be read. -/
theorem witness_PowerOnWithoutSaveImage :
    ((offWith (par .mbc3 4 1 true) .asItStands true).args.config.inRange = true ∧
      resolveConfig (offWith (par .mbc3 4 1 true) .asItStands true).args.config = .ok (par .mbc3 4 1 true) ∧
      (offWith (par .mbc3 4 1 true) .asItStands true).file = none) ∧
    ((offWith (par .rom 2 0 false) .asItStands false).args.config.inRange = true ∧
      resolveConfig (offWith (par .rom 2 0 false) .asItStands false).args.config = .ok (par .rom 2 0 false) ∧
      (par .rom 2 0 false).hasBattery = false) :=
  ⟨⟨by decide, rfl, rfl⟩, by decide, rfl, rfl⟩

/-- PowerOnLoadsSaveImage: an MBC3 with a store one byte short of a clock block, and with exactly one; an MBC1. -/
theorem witness_PowerOnLoadsSaveImage :
    (∀ q ∈ [(par .mbc3 4 1 true, 0x202B), (par .mbc3 4 1 true, 0x202C), (par .mbc1 8 1 true, 0x202C)],
      let f : Buf := { size := q.2, cells := clockCells 0x2000 }
      (offWith q.1 (.supplied (some f)) true).args.config.inRange = true ∧ q.1.hasBattery = true ∧ f.wf = true ∧
        q.1.rom.size = q.1.romSize) ∧
    resolveConfig (.direct (par .mbc3 4 1 true)) = .ok (par .mbc3 4 1 true) ∧
    resolveConfig (.direct (par .mbc1 8 1 true)) = .ok (par .mbc1 8 1 true) :=
  ⟨by decide, rfl, rfl⟩

/-- The machine that is off, with POWER_ON arguments that give this header. -/
def offHead (size : Nat) (t r m : Byte) (io : Bool) : State :=
  { State.reset with block := none, args := { HostArgs.reset with config := head size t r m, ioOk := io } }

/-- The header's image. -/
def headRom (size : Nat) (t r m : Byte) : Buf := { size := size, cells := [(0x0147, t), (0x0148, r), (0x0149, m)] }

/-- PowerOnReportsFirstFault: a header for each clause, at the bounds of the image length. -/
theorem witness_PowerOnReportsFirstFault :
    (∀ p ∈ [(0x0149, 0x03#8, 0x02#8, 0x03#8), (0x014A, 0x04#8, 0x02#8, 0x03#8), (0x20000, 0x03#8, 0x09#8, 0x03#8),
        (0x20000, 0x03#8, 0x02#8, 0x06#8), (0x1FFFF, 0x03#8, 0x02#8, 0x03#8), (0x20000, 0x03#8, 0x02#8, 0x03#8)],
      (offHead p.1 p.2.1 p.2.2.1 p.2.2.2 false).args.config =
        .header (headRom p.1 p.2.1 p.2.2.1 p.2.2.2) .automatic Buf.resetDmgBoot Buf.resetCgbBoot {} ∧
      (offHead p.1 p.2.1 p.2.2.1 p.2.2.2 false).args.config.inRange = true ∧
      (offHead p.1 p.2.1 p.2.2.1 p.2.2.2 false).args.ioOk = false) ∧
    (headRom 0x0149 0x03#8 0x02#8 0x03#8).size < 0x014A ∧ cartType ((headRom 0x014A 0x04#8 0x02#8 0x03#8).at 0x0147) = none ∧
    cartType ((headRom 0x20000 0x03#8 0x02#8 0x03#8).at 0x0147) = some { variant := .mbc1, declaresRam := true, battery := true } ∧
    romBanksOf ((headRom 0x20000 0x03#8 0x09#8 0x03#8).at 0x0148) = none ∧
    romBanksOf ((headRom 0x20000 0x03#8 0x02#8 0x06#8).at 0x0148) = some 8 ∧
    rawRamBanksOf ((headRom 0x20000 0x03#8 0x02#8 0x06#8).at 0x0149) = none ∧
    rawRamBanksOf ((headRom 0x1FFFF 0x03#8 0x02#8 0x03#8).at 0x0149) = some 4 ∧
    (headRom 0x1FFFF 0x03#8 0x02#8 0x03#8).size ≠ 8 * 0x4000 ∧ (headRom 0x20000 0x03#8 0x02#8 0x03#8).size = 8 * 0x4000 := by
  decide

/-- PowerOnLengthAndStoreFaults: parameters taken directly on an image one byte short, and a good configuration with a
battery, taken directly and from a header, on a store that cannot be read (a header one byte short stands in
`witness_PowerOnReportsFirstFault`). -/
theorem witness_PowerOnLengthAndStoreFaults :
    (let p : Params := { par .mbc1 8 4 true with rom := { size := 0x1FFFF, cells := [] } }
     (offWith p .asItStands true).args.config = .direct p ∧ (offWith p .asItStands true).args.config.inRange = true ∧
       p.rom.size ≠ p.romBanks * 0x4000) ∧
    ((offWith (par .mbc1 8 4 true) .asItStands false).args.config.inRange = true ∧
      (offWith (par .mbc1 8 4 true) .asItStands false).args.config = .direct (par .mbc1 8 4 true) ∧
      (par .mbc1 8 4 true).rom.size = (par .mbc1 8 4 true).romBanks * 0x4000 ∧ (par .mbc1 8 4 true).hasBattery = true ∧
      (offWith (par .mbc1 8 4 true) .asItStands false).args.ioOk = false) ∧
    CartConfig.reset.inRange = true ∧ Params.reset.hasBattery = true ∧ resolveConfig CartConfig.reset = .ok Params.reset :=
  ⟨⟨rfl, by decide, by decide⟩, ⟨by decide, rfl, by decide, by decide, rfl⟩, by decide, by decide, rfl⟩

/-- 2.12 rows 4 and 10 with parameters taken directly. -/
theorem test_power_on_direct_faults :
    got (ask State.reset 0b000#3 { HostArgs.reset with
      config := .direct { par .mbc1 8 4 true with rom := { size := 0x1FFFF, cells := [] } } })
      = some (.fault .configRomLength) ∧
    got (ask State.reset 0b000#3 { HostArgs.reset with config := .direct (par .mbc1 8 4 true), ioOk := false })
      = some (.fault .ioFailure) := by decide

/-- PowerOnForgetsEarlierLife: two machines with different blocks, the same store and arguments. -/
theorem witness_PowerOnForgetsEarlierLife :
    ∃ t, (at_ (block1 true 4)).file = (at_ (block5 true 4)).file ∧ (at_ (block1 true 4)).args = (at_ (block5 true 4)).args ∧
      (at_ (block1 true 4)).now = (at_ (block5 true 4)).now ∧ exec .powerOn (at_ (block5 true 4)) = .next t :=
  ⟨_, rfl, rfl, rfl, rfl⟩

/-- SavedRamSurvivesPowerCycle: the RAM-enable write of each variant that has one. -/
theorem witness_SavedRamSurvivesPowerCycle :
    (∀ p ∈ [(block1 true 4, Instr.m1RamgWr 0x0000#16 0x00#8), (block2 true, .m2RamgWr 0x0000#16 0x00#8),
        (blk3 0#4 (running 0 0), .m3RamgWr 0x0000#16 0x00#8), (block5 true 16, .m5RamgWr 0x1FFF#16 0xA0#8)],
      p.1.wf = true ∧ p.1.params.hasBattery = true ∧ p.2.inForce p.1.ctx = true ∧ p.1.params.inRange = true ∧
        p.1.params.rom.size = p.1.params.romSize) ∧
    (0x00#8).toNat % 16 ≠ 10 ∧ (0xA0#8).toNat % 16 ≠ 10 ∧ HostArgs.reset.ioOk = true ∧ HostArgs.reset.store = .asItStands ∧
    resolveConfig (.direct (block1 true 4).params) = .ok (block1 true 4).params :=
  ⟨by decide, by decide, by decide, rfl, rfl, rfl⟩

/-- ConfigurationTables, its ranges of codes. -/
theorem witness_ConfigurationTables :
    (0x18#8).toNat ≤ 0x18 ∧ 0x1F ≤ (0x1F#8).toNat ∧ (0x08#8).toNat ≤ 8 ∧ 8 < (0x09#8).toNat ∧ 5 < (0x06#8).toNat := by decide

/-- HeaderGivesParameters: the cartridge of R355. -/
theorem witness_HeaderGivesParameters :
    cartType (Buf.resetRom.at 0x0147) = some { variant := .mbc1, declaresRam := true, battery := true } ∧
    romBanksOf (Buf.resetRom.at 0x0148) = some 8 ∧ rawRamBanksOf (Buf.resetRom.at 0x0149) = some 4 ∧
    Buf.resetRom.size = 8 * 0x4000 ∧ false = colourMode .automatic (cgbFlagOf (Buf.resetRom.at 0x0143)) := by decide

theorem witness_ReadsChangeOnlyTheResult :
    ∃ t, Instr.isRead (.m1RamRd 0xA000#16) = true ∧ exec (.m1RamRd 0xA000#16) (at_ (block1 true 4)) = .next t :=
  ⟨_, rfl, eq_next_after (by decide)⟩

theorem witness_BusLeavesStoreAndParameters :
    ∃ t, Instr.isBus (.m1RamWr 0xA000#16 0x12#8) = true ∧ exec (.m1RamWr 0xA000#16 0x12#8) (at_ (block1 true 4)) = .next t :=
  ⟨_, rfl, eq_next_after (by decide)⟩

/-- OnlyRamWritesChangeRam: the byte each RAM-window write row stores, at the ends of the window and with a bank beyond the
count (R144, R159, R177, R199, R239); a window that shows no RAM, and a row that never stores. -/
theorem witness_OnlyRamWritesChangeRam :
    (∃ t b', Instr.isBus (.m1RamWr 0xBFFF#16 0x12#8) = true ∧ (at_ (block1 true 4)).block = some (block1 true 4) ∧
      (block1 true 4).ram.wf = true ∧ exec (.m1RamWr 0xBFFF#16 0x12#8) (at_ (block1 true 4)) = .next t ∧
      t.block = some b') ∧
    (blockRom 1).stored (.romRamWr 0xBFFF#16 0x12#8) = some (0x1FFF, 0x12#8) ∧
    (block1 true 4).stored (.m1RamWr 0xA000#16 0x12#8) = some (0x4000, 0x12#8) ∧
    (block2 true).stored (.m2RamWr 0xBFFF#16 0x12#8) = some (0x1FF, 0x02#8) ∧
    (blk3 3#4 (running 0 0)).stored (.m3RamWr 0xBFFF#16 0x12#8) = some (0x7FFF, 0x12#8) ∧
    (block5 true 4).stored (.m5RamWr 0xA001#16 0x99#8) = some (0x4001, 0x99#8) ∧
    (block1 false 4).stored (.m1RamWr 0xA000#16 0x12#8) = none ∧ (blockRom 0).stored (.romRamWr 0xA000#16 0x12#8) = none ∧
    (block1 true 4).stored (.m1RamgWr 0x0000#16 0x00#8) = none :=
  ⟨⟨_, { block1 true 4 with ram := { size := 0x8000, cells := [(0x5FFF, 0x12#8)] } }, rfl, rfl, by decide,
    eq_next_after (by decide), by decide⟩, by decide, by decide, by decide, by decide, by decide, by decide, by decide, rfl⟩

/-- StepKeepsWellFormed and EveryTransactionCompletes: a well-formed machine with a transaction waiting. -/
theorem witness_StepKeepsWellFormed_EveryTransactionCompletes :
    ∃ t : State, (let s : State := { at_ (block1 true 4) with pending := [{ now := 5, op := .bus 0x1A00012#25 }] }
      s.wf = true ∧ step s = .next t ∧ s.block = some (block1 true 4) ∧
        s.pending = { now := 5, op := .bus 0x1A00012#25 } :: []) :=
  ⟨_, by decide, eq_next_after (by decide), rfl, rfl⟩

/-- The invariant is not empty of content: states that break it, one for each kind of constraint. -/
theorem test_ill_formed_states :
    State.reset.wf = true ∧
    (at_ (blk (par .mbc1 8 4 true) (c1 false 0#5 0#2 false))).wf = false ∧
    (at_ (blk (par .mbc1 8 4 true) (.mbc2 ⟨false, 1#4⟩))).wf = false ∧
    (at_ { block1 true 4 with ram := { size := 0x7FFF, cells := [] } }).wf = false ∧
    (at_ { block1 true 4 with ram := { size := 0x8000, cells := [(3, 0x00#8)] } }).wf = false ∧
    (at_ { block1 true 4 with bat := .null }).wf = false ∧
    (at_ (blk (par .mbc1 3 4 true) (c1 false 1#5 0#2 false))).wf = false := by decide

end Tests
end Machine
end Sys2Proof
end

section
/-! SUPPORT. The step function, one equation per case: nothing waits, the oldest waiting word is an operation, it is none
(R8, R72, R100). -/

namespace Sys2Proof
namespace Machine

/-- Decoding looks at the block alone (R93), and taking an operation from the queue leaves the block. -/
@[simp] theorem State.accept_decoded (s : State) (r : Request) (q : List Request) (o : Op) :
    (s.accept r q).decoded o = s.decoded o := rfl

@[simp] theorem step_of_pending_nil {s : State} (hq : s.pending = []) : step s = .next s := by
  simp only [step, hq]

theorem step_of_decoded_instr {s : State} {r : Request} {q : List Request} {i : Instr}
    (hq : s.pending = r :: q) (hd : s.decoded r.op = .instr i) : step s = exec i (s.accept r q) := by
  simp only [step, hq, State.accept_decoded, hd]

theorem step_of_decoded_rejected {s : State} {r : Request} {q : List Request} {e : Reject}
    (hq : s.pending = r :: q) (hd : s.decoded r.op = .rejected e) : step s = (s.accept r q).reject e := by
  simp only [step, hq, State.accept_decoded, hd]

/-- Settles O8: `State.accept` is the state the statement writes out, and the step's equations do the rest. -/
theorem stepRunsDecodedOperation : Obligations.StepRunsDecodedOperation :=
  ⟨fun _ _ _ _ hq hd => step_of_decoded_instr hq hd, fun _ hq => step_of_pending_nil hq⟩

end Machine
end Sys2Proof
end

section
/-! SUPPORT. The invariant `State.wf`, part by part: what an update of the state, an operation that is taken, a bus
transaction and each host operation do to it (10_state.md R24 to R36). -/

namespace Sys2Proof
namespace Machine

/-! ### Parts of a well-formed state -/

theorem HostArgs.wf_iff {a : HostArgs} :
    a.wf = true ↔ a.config.canonical = true ∧ a.store.canonical = true ∧ a.snap.wf = true := by
  simp [HostArgs.wf, and_assoc]

theorem State.block_wf {s : State} {b : Block} (h : s.wf = true) (hb : s.block = some b) : b.wf = true :=
  (State.wf_iff.1 h).1 b hb

theorem State.file_wf {s : State} (h : s.wf = true) : storeWf s.file = true := (State.wf_iff.1 h).2.1

theorem State.args_wf {s : State} (h : s.wf = true) : s.args.wf = true := (State.wf_iff.1 h).2.2.2.1

/-! ### Updates of the state -/

theorem State.wf_withResult {s : State} {r : Result} (h : s.wf = true) (hr : r.wf = true) :
    ({ s with result := r } : State).wf = true := by
  obtain ⟨hblock, hfile, hpending, hargs, -⟩ := State.wf_iff.1 h
  exact State.wf_iff.2 ⟨hblock, hfile, hpending, hargs, hr⟩

theorem State.wf_withBlock {s : State} {o : Option Block} (h : s.wf = true) (ho : ∀ b, o = some b → b.wf = true) :
    ({ s with block := o } : State).wf = true :=
  State.wf_iff.2 ⟨ho, (State.wf_iff.1 h).2⟩

theorem State.wf_withFile {s : State} {f : Option Buf} (h : s.wf = true) (hf : storeWf f = true) :
    ({ s with file := f } : State).wf = true := by
  obtain ⟨hblock, -, hrest⟩ := State.wf_iff.1 h
  exact State.wf_iff.2 ⟨hblock, hf, hrest⟩

theorem State.complete_wf {s t : State} (h : s.wf = true) (ht : s.complete = .next t) : t.wf = true := by
  cases ht
  exact State.wf_withResult h rfl

theorem State.raise_wf {s t : State} {f : SpecFault} (h : s.wf = true) (ht : s.raise f = .next t) : t.wf = true := by
  cases ht
  exact State.wf_withResult h rfl

theorem State.commit_wf {s t : State} {b : Block} (h : s.wf = true) (hb : b.wf = true) (ht : s.commit b = .next t) :
    t.wf = true := by
  cases ht
  exact State.wf_withResult (State.wf_withBlock h (by rintro _ ⟨⟩; exact hb)) rfl

/-! ### Taking the oldest operation -/

/-- The arguments of the operation taken were well formed while it waited. -/
theorem State.accept_wf {s : State} {r : Request} {q : List Request} (h : s.wf = true) (hq : s.pending = r :: q) :
    (s.accept r q).wf = true := by
  obtain ⟨hblock, hfile, hpending, hargs, hresult⟩ := State.wf_iff.1 h
  rw [hq, List.forall_mem_cons] at hpending
  refine State.wf_iff.2 ⟨hblock, hfile, hpending.2, ?_, hresult⟩
  obtain ⟨n, op⟩ := r
  cases op with
  | bus w => exact hargs
  | host c a => exact hpending.1

theorem State.reject_wf {s t : State} {e : Reject} (h : s.wf = true) (ht : s.reject e = .next t) : t.wf = true := by
  cases e with
  | notClaimed a => exact State.raise_wf h ht
  | noBlock => cases ht
  | unassignedHostCode c => cases ht

/-! ### Bus transactions -/

theorem WriteEffect.block_wf {i : Instr} {now : Nat} {b b' : Block} (he : WriteEffect i now b b') (h : b.wf = true) :
    b'.wf = true := by
  have hlegal : b.ctrl.legal = true := (Block.wf_iff.1 h).2.2.1
  cases he with
  | ignored => exact h
  | overlayOff => exact Block.wf_bootOff h true
  | ram j v ram hi hs hset => exact Block.wf_ram h hset
  | register c hv hl => exact Block.wf_ctrl h hv (hl hlegal)
  | gate c e hi hv hl => exact Block.wf_afterEnableWrite (Block.wf_ctrl h hv (hl hlegal)) e now

theorem BusOutcome.state_wf {i : Instr} {s t : State} (ho : BusOutcome i s t) (h : s.wf = true) : t.wf = true := by
  obtain ⟨b, hb, ⟨-, v, rfl⟩ | ⟨-, b', he, rfl⟩⟩ := ho
  · exact State.wf_withResult h rfl
  · exact State.commit_wf h (he.block_wf (State.block_wf h hb)) rfl

/-! ### Host operations -/

theorem StoreArg.pick_wf {a : StoreArg} {f : Option Buf} (ha : a.canonical = true) (hf : storeWf f = true) :
    storeWf (a.pick f) = true := by
  cases a with
  | asItStands => exact hf
  | supplied g => exact ha

theorem execPowerOn_wf {s t : State} (h : s.wf = true) (ht : execPowerOn s = .next t) : t.wf = true := by
  obtain ⟨hconfig, hstore, -⟩ := HostArgs.wf_iff.1 (State.args_wf h)
  have hfile := StoreArg.pick_wf hstore (State.file_wf h)
  have hoff : ({ s with block := none, file := s.args.store.pick s.file } : State).wf = true :=
    State.wf_withBlock (State.wf_withFile h hfile) (by simp)
  unfold execPowerOn at ht
  split at ht
  · cases ht
  next hrange =>
  split at ht
  · exact State.raise_wf hoff ht
  next p hp =>
  split at ht
  · exact State.raise_wf hoff ht
  · have hparams : p.wf = true := resolveConfig_wf (by simpa using hrange) hconfig hp
    exact State.commit_wf (State.wf_withFile h hfile) (Block.wf_powerOn hparams hfile s.now) ht

/-- A flush changes no buffer of the battery. -/
theorem Block.wf_flushed {b : Block} {m : FileBattery} (h : b.wf = true) (hm : b.bat = .file m) :
    ({ b with bat := .file m.flushed } : Block).wf = true := by
  rw [Block.wf_iff, hm] at h
  exact Block.wf_iff.2 h

theorem FileBattery.image_wf {m : FileBattery} (h : (Battery.file m).canonical = true) : m.image.wf = true := by
  simp only [Battery.canonical, Bool.and_eq_true] at h
  unfold FileBattery.image
  split
  · exact Buf.append_wf h.1 h.2
  · exact h.1

theorem Block.bat_canonical {b : Block} (h : b.wf = true) : b.bat.canonical = true := by
  obtain ⟨-, -, -, -, -, hfits⟩ := Block.wf_iff.1 h
  exact (Battery.fits_iff.1 hfits).2.2

/-- Whatever bytes a failed flush leaves, they are held in canonical form. -/
theorem failedStore_wf (n : Nat) : storeWf (failedStore n) = true := by
  unfold failedStore
  cases Config.failedFlushStore n with
  | none => rfl
  | some l => exact Buf.ofBytes_wf l

theorem execFlush_wf {s t : State} (h : s.wf = true) (ht : execFlush s = .next t) : t.wf = true := by
  obtain ⟨b, hb, -⟩ := State.onBlock_next ht
  have hbw := State.block_wf h hb
  cases hm : b.bat with
  | null => exact State.complete_wf h ((execFlush_null hb hm).symm.trans ht)
  | file m =>
    cases hd : m.dirty with
    | false => exact State.complete_wf h ((execFlush_clean hb hm hd).symm.trans ht)
    | true =>
      cases ho : s.args.ioOk with
      | true =>
        have himage : m.image.wf = true := FileBattery.image_wf (hm ▸ Block.bat_canonical hbw)
        exact State.commit_wf (State.wf_withFile (f := some m.image) h himage) (Block.wf_flushed hbw hm)
          ((execFlush_ok hb hm hd ho).symm.trans ht)
      | false =>
        have hfail : ({ s with file := failedStore s.freeCount, freeCount := s.freeCount + 1 } : State).wf = true :=
          State.wf_withFile h (failedStore_wf s.freeCount)
        exact State.raise_wf hfail ((execFlush_failed hb hm hd ho).symm.trans ht)

theorem execSnapshot_wf {s t : State} (h : s.wf = true) (ht : execSnapshot s = .next t) : t.wf = true := by
  obtain ⟨b, hb, hk⟩ := State.onBlock_next ht
  cases hk
  exact State.wf_withResult h (Block.wf_snap (State.block_wf h hb))

theorem execRestore_wf {s t : State} (h : s.wf = true) (ht : execRestore s = .next t) : t.wf = true := by
  obtain ⟨b, hb, hk⟩ := State.onBlock_next ht
  obtain ⟨-, -, hsnap⟩ := HostArgs.wf_iff.1 (State.args_wf h)
  split at hk
  · exact State.raise_wf h hk
  next hnone => exact State.commit_wf h (Block.wf_restored (State.block_wf h hb) hsnap hnone) hk

theorem execPowerOff_wf {s t : State} (h : s.wf = true) (ht : execPowerOff s = .next t) : t.wf = true := by
  cases ht
  exact State.wf_withResult (State.wf_withBlock h (by simp)) rfl

/-! ### The step -/

theorem isBus_or_isHost (i : Instr) :
    i.isBus = true ∨ i = .powerOn ∨ i = .flush ∨ i = .snapshot ∨ i = .restore ∨ i = .powerOff := by
  cases i <;> simp [Instr.isBus, encode]

theorem exec_wf {i : Instr} {s t : State} (h : s.wf = true) (ht : exec i s = .next t) : t.wf = true := by
  obtain hbus | rfl | rfl | rfl | rfl | rfl := isBus_or_isHost i
  · exact (exec_bus hbus ht).state_wf h
  · exact execPowerOn_wf h ht
  · exact execFlush_wf h ht
  · exact execSnapshot_wf h ht
  · exact execRestore_wf h ht
  · exact execPowerOff_wf h ht

/-- Settles O57, by the three cases of a step: nothing waits, the oldest waiting word is an operation, it is none. -/
theorem stepKeepsWellFormed : Obligations.StepKeepsWellFormed := by
  intro s t h ht
  cases hq : s.pending with
  | nil =>
    rw [step_of_pending_nil hq] at ht
    cases ht
    exact h
  | cons r q =>
    have hacc : (s.accept r q).wf = true := State.accept_wf h hq
    cases hd : s.decoded r.op with
    | instr i => exact exec_wf hacc ((step_of_decoded_instr hq hd).symm.trans ht)
    | rejected e => exact State.reject_wf hacc ((step_of_decoded_rejected hq hd).symm.trans ht)

/-- The parameters at reset are those that the cartridge of R355 resolves to. -/
theorem Params.reset_wf : Params.reset.wf = true := resolveConfig_wf (c := CartConfig.reset) rfl rfl rfl

/-- The block at reset is the one POWER_ON leaves with no save image (R36). -/
theorem Block.reset_eq_powerOn : Block.reset = Block.powerOn Params.reset none 1000 := rfl

theorem Block.reset_wf : Block.reset.wf = true := by
  rw [Block.reset_eq_powerOn]
  exact Block.wf_powerOn Params.reset_wf rfl 1000

/-- Settles O58: the block is a powered-on one, and the ports hold nothing ill formed. -/
theorem resetIsWellFormed : Obligations.ResetIsWellFormed :=
  State.wf_iff.2 ⟨by rintro _ ⟨⟩; exact Block.reset_wf, rfl, by simp [State.reset], rfl, rfl⟩

end Machine
end Sys2Proof
end

section
/-! SUPPORT. What a bus transaction has to do with the store and the parameters: nothing (10_state.md R34, 20_memory.md
R73, 30_encoding.md R101). A meaning that is blind to the store does the same with any other one; each operation that
the bus meanings are built from is blind to it. -/

namespace Sys2Proof
namespace Machine

/-! ### The frame -/

theorem WriteEffect.params_eq {i : Instr} {now : Nat} {b b' : Block} (he : WriteEffect i now b b') :
    b'.params = b.params := by
  cases he with
  | gate c e => exact Block.afterEnableWrite_params _ e now
  | _ => rfl

/-- The block stays, with its parameters. -/
theorem BusOutcome.params_eq {i : Instr} {s t : State} (ho : BusOutcome i s t) :
    ∃ b b', s.block = some b ∧ t.block = some b' ∧ b'.params = b.params := by
  obtain ⟨b, hb, ⟨-, v, rfl⟩ | ⟨-, b', he, rfl⟩⟩ := ho
  · exact ⟨b, b, hb, hb, rfl⟩
  · exact ⟨b, b', hb, rfl, he.params_eq⟩

/-- The store and the ports stay. -/
theorem BusOutcome.frame {i : Instr} {s t : State} (ho : BusOutcome i s t) :
    t.file = s.file ∧ t.pending = s.pending ∧ t.now = s.now ∧ t.args = s.args ∧ t.freeCount = s.freeCount := by
  obtain ⟨b, hb, ⟨-, v, rfl⟩ | ⟨-, b', he, rfl⟩⟩ := ho <;> exact ⟨rfl, rfl, rfl, rfl, rfl⟩

/-! ### Blindness to the store -/

/-- The outcome with the store `f` in its next state. -/
def Out.withFile (f : Option Buf) : Out → Out
  | .next t => .next { t with file := f }
  | .fault e => .fault e
  | .refused e => .refused e

/-- With another store the meaning `m` does the same, and that store stays. -/
def StoreBlind (m : State → Out) : Prop := ∀ (s : State) (f : Option Buf), m { s with file := f } = Out.withFile f (m s)

theorem StoreBlind.refused (e : Refusal) : StoreBlind fun _ => .refused e := fun _ _ => rfl

theorem StoreBlind.fault (e : Fault) : StoreBlind fun _ => .fault e := fun _ _ => rfl

theorem StoreBlind.complete : StoreBlind State.complete := fun _ _ => rfl

/-- The byte delivered may depend on the time, not on the store. -/
theorem StoreBlind.deliver {v : State → Byte} (hv : ∀ s f, v { s with file := f } = v s := by intros; rfl) :
    StoreBlind fun s => s.deliver (v s) := fun s f => congrArg (fun w => Out.withFile f (s.deliver w)) (hv s f)

/-- The block committed may depend on the time, not on the store. -/
theorem StoreBlind.commit {b : State → Block} (hb : ∀ s f, b { s with file := f } = b s := by intros; rfl) :
    StoreBlind fun s => s.commit (b s) := fun s f => congrArg (fun c => Out.withFile f (s.commit c)) (hb s f)

theorem StoreBlind.ite {c : Prop} [Decidable c] {m n : State → Out} (hm : StoreBlind m) (hn : StoreBlind n) :
    StoreBlind fun s => if c then m s else n s := by
  split
  · exact hm
  · exact hn

theorem StoreBlind.onBlock {k : State → Block → Out} (hk : ∀ b, StoreBlind fun s => k s b) :
    StoreBlind fun s => s.onBlock (k s) := by
  intro s f
  dsimp only
  cases hb : s.block with
  | none => simp only [State.onBlock, hb]; rfl
  | some b => simpa only [State.onBlock, hb] using hk b s f

theorem StoreBlind.onRom {k : State → Block → Out} (hk : ∀ b, StoreBlind fun s => k s b) :
    StoreBlind fun s => s.onRom (k s) := by
  refine .onBlock fun b => ?_
  split
  · exact hk b
  · exact .refused _

theorem StoreBlind.onMbc1 {k : State → Block → Mbc1 → Out} (hk : ∀ b r, StoreBlind fun s => k s b r) :
    StoreBlind fun s => s.onMbc1 (k s) := by
  refine .onBlock fun b => ?_
  split
  · exact hk b _
  · exact .refused _

theorem StoreBlind.onMbc2 {k : State → Block → Mbc2 → Out} (hk : ∀ b r, StoreBlind fun s => k s b r) :
    StoreBlind fun s => s.onMbc2 (k s) := by
  refine .onBlock fun b => ?_
  split
  · exact hk b _
  · exact .refused _

theorem StoreBlind.onMbc3 {k : State → Block → Mbc3 → Rtc → Out} (hk : ∀ b r c, StoreBlind fun s => k s b r c) :
    StoreBlind fun s => s.onMbc3 (k s) := by
  refine .onBlock fun b => ?_
  split
  · exact hk b _ _
  · exact .refused _

theorem StoreBlind.onMbc5 {k : State → Block → Mbc5 → Out} (hk : ∀ b r, StoreBlind fun s => k s b r) :
    StoreBlind fun s => s.onMbc5 (k s) := by
  refine .onBlock fun b => ?_
  split
  · exact hk b _
  · exact .refused _

theorem StoreBlind.onWindow {w : Mbc3Target} {k : State → Block → Mbc3 → Rtc → Out}
    (hk : ∀ b r c, StoreBlind fun s => k s b r c) : StoreBlind fun s => s.onWindow w (k s) :=
  .onMbc3 fun b r c => .ite (hk b r c) (.refused _)

theorem StoreBlind.deliverFrom (sp : Space) (x : Buf) (i : Nat) : StoreBlind fun s => s.deliverFrom sp x i := by
  unfold State.deliverFrom
  split
  · exact .deliver
  · exact .fault _

theorem StoreBlind.writeRam (b : Block) (i : Nat) (v : Byte) : StoreBlind fun s => s.writeRam b i v := by
  unfold State.writeRam
  split
  · exact .commit
  · exact .fault _

theorem StoreBlind.readWindow (b : Block) (shown : Bool) (i : Nat) : StoreBlind fun s => s.readWindow b shown i :=
  .ite (.deliverFrom .ram b.ram i) .deliver

theorem StoreBlind.writeWindow (b : Block) (shown : Bool) (i : Nat) (v : Byte) :
    StoreBlind fun s => s.writeWindow b shown i v :=
  .ite (.writeRam b i v) .complete

theorem StoreBlind.readBootHigh (a : Addr) : StoreBlind fun s => s.readBootHigh a :=
  .onBlock fun _ => .ite (.refused _) (.deliverFrom _ _ _)

theorem StoreBlind.m2RamRd (a : Addr) : StoreBlind (execM2RamRd a) := by
  refine .onMbc2 fun b r => .ite ?_ .deliver
  split
  · exact .deliver
  · exact .fault _

/-- No bus transaction looks at the store. -/
theorem StoreBlind.exec_bus {i : Instr} (hi : i.isBus = true) : StoreBlind (exec i) := by
  cases i
  case ff50Rd => exact .onBlock fun _ => .deliver
  case ff50Wr d => exact .onBlock fun _ => .commit
  case bootRd a => exact .onBlock fun _ => .ite (.refused _) (.deliverFrom _ _ _)
  case bootcRdA a | bootcRdB a | bootcRdC a => exact .readBootHigh a
  case romRd a => exact .onRom fun _ => .deliverFrom _ _ _
  case romWr a d => exact .onRom fun _ => .complete
  case romRamRd a => exact .onRom fun _ => .readWindow _ _ _
  case romRamWr a d => exact .onRom fun _ => .writeWindow _ _ _ _
  case m1Rom0Rd a | m1RomxRd a => exact .onMbc1 fun _ _ => .deliverFrom _ _ _
  case m1RamgWr a d | m1Bank1Wr a d | m1Bank2Wr a d | m1ModeWr a d => exact .onMbc1 fun _ _ => .commit
  case m1RamRd a => exact .onMbc1 fun _ _ => .readWindow _ _ _
  case m1RamWr a d => exact .onMbc1 fun _ _ => .writeWindow _ _ _ _
  case m2Rom0Rd a | m2RomxRd a => exact .onMbc2 fun _ _ => .deliverFrom _ _ _
  case m2RamgWr a d | m2RombWr a d => exact .onMbc2 fun _ _ => .commit
  case m2NopWr a d => exact .onMbc2 fun _ _ => .complete
  case m2RamRd a => exact .m2RamRd a
  case m2RamWr a d => exact .onMbc2 fun _ _ => .writeWindow _ _ _ _
  case m3Rom0Rd a | m3RomxRd a => exact .onMbc3 fun _ _ _ => .deliverFrom _ _ _
  case m3RamgWr a d | m3RombWr a d | m3SelWr a d | m3LatchWr a d => exact .onMbc3 fun _ _ _ => .commit
  case m3RamRd a => exact .onWindow fun _ _ _ => .deliverFrom _ _ _
  case m3RamWr a d => exact .onWindow fun _ _ _ => .writeRam _ _ _
  case m3NoneWr a d => exact .onWindow fun _ _ _ => .complete
  case m3NoneRd a | m3RtcsRd a | m3RtcmRd a | m3RtchRd a | m3RtcdlRd a | m3RtcdhRd a =>
    exact .onWindow fun _ _ _ => .deliver
  case m3RtcsWr a d | m3RtcmWr a d | m3RtchWr a d | m3RtcdlWr a d | m3RtcdhWr a d =>
    exact .onWindow fun _ _ _ => .commit
  case m5Rom0Rd a | m5RomxRd a => exact .onMbc5 fun _ _ => .deliverFrom _ _ _
  case m5RamgWr a d | m5Romb0Wr a d | m5Romb1Wr a d | m5RambWr a d => exact .onMbc5 fun _ _ => .commit
  case m5NopWr a d => exact .onMbc5 fun _ _ => .complete
  case m5RamRd a => exact .onMbc5 fun _ _ => .readWindow _ _ _
  case m5RamWr a d => exact .onMbc5 fun _ _ => .writeWindow _ _ _ _
  all_goals cases hi

/-- Settles O55: the frame is that of `BusOutcome`, and every bus meaning is blind to the store. -/
theorem busLeavesStoreAndParameters : Obligations.BusLeavesStoreAndParameters := by
  intro i s t hi ht
  have ho : BusOutcome i s t := exec_bus hi ht
  obtain ⟨hfile, hpending, hnow, hargs, hfree⟩ := ho.frame
  refine ⟨hfile, hpending, hnow, hargs, hfree, ho.params_eq, fun f => ?_⟩
  calc exec i { s with file := f }
      = Out.withFile f (exec i s) := StoreBlind.exec_bus hi s f
    _ = .next { t with file := f } := by rw [ht]; rfl

end Machine
end Sys2Proof
end

section
/-! SUPPORT. The memory map and its windows (20_memory.md): what the decoder reads from the word of a read and of a write,
which overlay window takes a read (R64), bank translation (R70), and what a bus transaction does to RAM (R68, R69). -/

namespace Sys2Proof

/-! ### The words of a read and of a write (R90) -/

@[simp] theorem TWord.make_addr (wr : Bool) (a : Addr) (d : Byte) : (TWord.make wr a d).addr = a := by
  apply BitVec.eq_of_toNat_eq
  simp only [TWord.addr, TWord.make, BitVec.extractLsb'_toNat, Laws.TableRow.toNat_append_add, Nat.shiftRight_eq_div_pow]
  have ha := a.isLt
  have hd := d.isLt
  omega

@[simp] theorem TWord.make_data (wr : Bool) (a : Addr) (d : Byte) : (TWord.make wr a d).data = d := by
  apply BitVec.eq_of_toNat_eq
  simp only [TWord.data, TWord.make, BitVec.extractLsb'_toNat, Laws.TableRow.toNat_append_add, Nat.shiftRight_eq_div_pow]
  have hd := d.isLt
  omega

@[simp] theorem rdWord_addr (a : Addr) : (rdWord a).addr = a := TWord.make_addr false a 0
@[simp] theorem wrWord_addr (a : Addr) (d : Byte) : (wrWord a d).addr = a := TWord.make_addr true a d
@[simp] theorem wrWord_data (a : Addr) (d : Byte) : (wrWord a d).data = d := TWord.make_data true a d

theorem decode_rdWord (c : DecodeCtx) (a : Addr) : decode (some c) (.t (rdWord a)) = decodeRd c a := by
  simp [decode, decodeBus]

theorem decode_wrWord (c : DecodeCtx) (a : Addr) (d : Byte) :
    decode (some c) (.t (wrWord a d)) = decodeWr c a d := by
  simp [decode, decodeBus]

/-! ### The overlay windows (R64) -/

theorem Addr.within_iff {lo hi : Nat} {a : Addr} : a.within lo hi = true ↔ lo ≤ a.toNat ∧ a.toNat ≤ hi := by
  simp [Addr.within]

theorem DecodeCtx.overlay1_iff {c : DecodeCtx} {a : Addr} :
    c.overlay1 a = true ↔ c.bootOff = false ∧ a.toNat ≤ 0x00FF := by
  simp [DecodeCtx.overlay1, Addr.within_iff]

theorem DecodeCtx.overlay2_iff {c : DecodeCtx} {a : Addr} :
    c.overlay2 a = true ↔ c.bootOff = false ∧ c.cgb = true ∧ 0x0200 ≤ a.toNat ∧ a.toNat ≤ 0x08FF := by
  simp [DecodeCtx.overlay2, Addr.within_iff, and_assoc]

theorem DecodeCtx.overlaid_iff {c : DecodeCtx} {a : Addr} :
    c.overlaid a = true ↔ c.overlay1 a = true ∨ c.overlay2 a = true := by
  simp [DecodeCtx.overlaid]

/-- Both windows end below the disable register. -/
theorem DecodeCtx.ne_disableRegister_of_overlaid {c : DecodeCtx} {a : Addr} (h : c.overlaid a = true) :
    a ≠ 0xFF50#16 := by
  rintro rfl
  simp [DecodeCtx.overlaid_iff, DecodeCtx.overlay1_iff, DecodeCtx.overlay2_iff] at h

theorem decodeRd_of_overlay1 {c : DecodeCtx} {a : Addr} (h : c.overlay1 a = true) :
    decodeRd c a = .instr (.bootRd a) := by
  have hne := DecodeCtx.ne_disableRegister_of_overlaid (DecodeCtx.overlaid_iff.2 (.inl h))
  rw [decodeRd, if_neg hne, if_pos h]

/-- The second window is three rows of the table (R104). -/
theorem decodeRd_of_overlay2 {c : DecodeCtx} {a : Addr} (h : c.overlay2 a = true) :
    decodeRd c a = .instr (.bootcRdA a) ∨ decodeRd c a = .instr (.bootcRdB a) ∨
      decodeRd c a = .instr (.bootcRdC a) := by
  have hne := DecodeCtx.ne_disableRegister_of_overlaid (DecodeCtx.overlaid_iff.2 (.inr h))
  have hnot1 : ¬ c.overlay1 a = true := by
    rw [DecodeCtx.overlay1_iff]
    rw [DecodeCtx.overlay2_iff] at h
    omega
  rw [decodeRd, if_neg hne, if_neg hnot1, if_pos h]
  split_ifs
  · exact .inl rfl
  · exact .inr (.inl rfl)
  · exact .inr (.inr rfl)

/-- Outside the windows in force a read is decoded as if the overlay were gone. -/
theorem decodeRd_of_not_overlaid {c : DecodeCtx} {a : Addr} (h : c.overlaid a = false) :
    decodeRd c a = decodeRd { c with bootOff := true } a := by
  simp only [DecodeCtx.overlaid, Bool.or_eq_false_iff] at h
  obtain ⟨hnot1, hnot2⟩ := h
  simp only [decodeRd, hnot1, hnot2]
  rfl

/-- Settles O7: each clause is one case of `decodeRd`; `decodeWr` does not look at `bootOff`. -/
theorem overlayTakesReadsOnly : Obligations.OverlayTakesReadsOnly := by
  intro c a d
  simp only [decode_rdWord, decode_wrWord]
  refine ⟨fun ha hoff => ?first, fun hlo hhi hoff hcgb => ?second, fun hlo hhi => ?header, rfl⟩
  case first => exact decodeRd_of_overlay1 (DecodeCtx.overlay1_iff.2 ⟨hoff, ha⟩)
  case second => exact decodeRd_of_overlay2 (DecodeCtx.overlay2_iff.2 ⟨hoff, hcgb, hlo, hhi⟩)
  case header =>
    apply decodeRd_of_not_overlaid
    rw [Bool.eq_false_iff, ne_eq, DecodeCtx.overlaid_iff, DecodeCtx.overlay1_iff, DecodeCtx.overlay2_iff]
    omega

namespace Machine

/-! ### Bank translation (R70) -/

theorem Params.romOffset_eq (p : Params) (k : Nat) (a : Addr) :
    p.romOffset k a = k % p.romBanks * 0x4000 + a.toNat % 0x4000 := by
  rw [Params.romOffset, romSlice_eq, Config.romBankSize]

theorem Params.ramOffset_eq (p : Params) (k : Nat) (a : Addr) :
    p.ramOffset k a = k % p.ramBanks * 0x2000 + a.toNat % 0x2000 := by
  rw [Params.ramOffset, ramSlice_eq, Config.ramBankSize]

/-- Settles O13: the offsets written out, with the bounds `Params.romOffset_lt` and `Params.ramOffset_lt`. -/
theorem bankTranslation : Obligations.BankTranslation := fun p k a =>
  ⟨fun h => ⟨p.romOffset_eq k a, p.romOffset_lt k a h⟩, fun h => ⟨p.ramOffset_eq k a, p.ramOffset_lt k a h⟩,
    ramSlice_eq a⟩

/-! ### Reads (R68) -/

theorem isBus_of_isRead {i : Instr} (h : i.isRead = true) : i.isBus = true := by
  unfold Instr.isRead at h
  unfold Instr.isBus
  split at h
  · rfl
  · cases h

/-- A read that completes changes the result only. -/
theorem BusOutcome.result_of_isRead {i : Instr} {s t : State} (ho : BusOutcome i s t) (hi : i.isRead = true) :
    ∃ v, t = { s with result := .byte v } := by
  obtain ⟨-, -, ⟨-, hv⟩ | ⟨hwrite, -⟩⟩ := ho
  · exact hv
  · cases hi.symm.trans hwrite

/-- Settles O54: a read is a bus transaction, and its outcome is the first case of `BusOutcome`. -/
theorem readsChangeOnlyTheResult : Obligations.ReadsChangeOnlyTheResult :=
  fun _ _ _ hi ht => (exec_bus (isBus_of_isRead hi) ht).result_of_isRead hi

/-! ### RAM (R69) -/

/-- A write that succeeds on a canonical array changes that byte only. -/
theorem Buf.updated_of_set {x x' : Buf} {i : Nat} {v : Byte} (hw : x.wf = true) (hset : x.set i v = some x') :
    x.Updated i v x' := by
  obtain ⟨hi, -⟩ := Buf.set_some hset hw
  obtain ⟨y, hy, hsize, -, hget⟩ := Buf.set_spec (v := v) hw hi
  obtain rfl := Option.some.inj (hset.symm.trans hy)
  exact ⟨hi, hsize, hget⟩

/-- No read stores to RAM. -/
theorem Block.stored_of_isRead {b : Block} {i : Instr} (hi : i.isRead = true) : b.stored i = none := by
  unfold Block.stored
  split
  case h_6 => rfl
  all_goals simp [Instr.isRead, encode] at hi

/-- What a write transaction does to RAM: nothing, or the one store of its row. -/
theorem WriteEffect.ram_cases {i : Instr} {now : Nat} {b b' : Block} (he : WriteEffect i now b b') :
    (b.stored i = none ∧ b'.ram = b.ram) ∨
      ∃ j v, i.isRamWrite = true ∧ b.stored i = some (j, v) ∧ b.ram.set j v = some b'.ram := by
  cases he with
  | ignored hs => exact .inl ⟨hs, rfl⟩
  | overlayOff hs => exact .inl ⟨hs, rfl⟩
  | ram j v ram hi hs hset => exact .inr ⟨j, v, hi, hs, hset⟩
  | register c hv hl hs => exact .inl ⟨hs, rfl⟩
  | gate c e hi hv hl he hs => exact .inl ⟨hs, Block.afterEnableWrite_ram _ e now⟩

/-- What a bus transaction does to RAM: nothing, or the one store of its row. -/
theorem BusOutcome.ram_cases {i : Instr} {s t : State} {b b' : Block} (ho : BusOutcome i s t) (hb : s.block = some b)
    (hb' : t.block = some b') :
    (b.stored i = none ∧ b'.ram = b.ram) ∨
      ∃ j v, i.isRamWrite = true ∧ b.stored i = some (j, v) ∧ b.ram.set j v = some b'.ram := by
  obtain ⟨c, hc, ⟨hi, v, rfl⟩ | ⟨-, c', he, rfl⟩⟩ := ho
  · obtain rfl := Option.some.inj (hb.symm.trans hb')
    exact .inl ⟨Block.stored_of_isRead hi, rfl⟩
  · obtain rfl := Option.some.inj (hc.symm.trans hb)
    obtain rfl := Option.some.inj hb'
    exact he.ram_cases

/-- Settles O56: the two cases of `BusOutcome.ram_cases` are the two clauses. -/
theorem onlyRamWritesChangeRam : Obligations.OnlyRamWritesChangeRam := by
  intro i s t b b' hi hb hw ht hb'
  obtain ⟨hnone, hram⟩ | ⟨j, v, hwrite, hsome, hset⟩ := (exec_bus hi ht).ram_cases hb hb'
  · rw [hnone]
    exact ⟨nofun, fun _ => hram⟩
  · rw [hsome]
    refine ⟨?_, nofun⟩
    rintro _ _ ⟨⟩
    exact ⟨hwrite, Buf.updated_of_set hw hset⟩

end Machine
end Sys2Proof
end

section
/-! SUPPORT. The decoder and the encoder (30_encoding.md). A controller's map is a table (R95 to R99): it answers the
first row whose window holds the address, the windows of a table are disjoint, and so it answers exactly the rows of the
table that are well formed. -/

namespace Sys2Proof

/-! ### Tables of rows -/

/-- The first of some rows at the address `a` whose window holds it; where none does, `a` is unclaimed. -/
def firstRow (a : Addr) : List Instr → Decoded
  | [] => .rejected (.notClaimed a)
  | i :: l => if i.wf then .instr i else firstRow a l

/-- No address lies in the windows of two of the rows. -/
def DisjointRows (l : List Instr) : Prop := l.Pairwise fun i j => i.wf = true → j.wf = false

theorem firstRow_eq_instr_iff {a : Addr} {l : List Instr} {i : Instr} (hl : DisjointRows l) :
    firstRow a l = .instr i ↔ i ∈ l ∧ i.wf = true := by
  induction l with
  | nil => simp [firstRow]
  | cons j l ih =>
    obtain ⟨hj, hl⟩ := List.pairwise_cons.1 hl
    rw [firstRow, List.mem_cons]
    split_ifs with hwf
    · constructor
      · rintro ⟨⟩
        exact ⟨.inl rfl, hwf⟩
      · rintro ⟨rfl | hi, hi'⟩
        · rfl
        · cases (hj i hi hwf).symm.trans hi'
    · rw [ih hl]
      constructor
      · exact fun ⟨hi, hi'⟩ => ⟨.inr hi, hi'⟩
      · rintro ⟨rfl | hi, hi'⟩
        · exact absurd hi' hwf
        · exact ⟨hi, hi'⟩

theorem firstRow_eq_rejected {a : Addr} {l : List Instr} {e : Reject} (h : firstRow a l = .rejected e) :
    e = .notClaimed a := by
  induction l with
  | nil => cases h; rfl
  | cons i l ih =>
    rw [firstRow] at h
    split_ifs at h
    exact ih h

/-! ### The controllers' tables (R95 to R99) -/

/-- The rows of the controller's map that take reads. -/
def DecodeCtx.readRows (c : DecodeCtx) (a : Addr) : List Instr :=
  match c.variant with
  | .rom => [.romRd a, .romRamRd a]
  | .mbc1 => [.m1Rom0Rd a, .m1RomxRd a, .m1RamRd a]
  | .mbc2 => [.m2Rom0Rd a, .m2RomxRd a, .m2RamRd a]
  | .mbc3 => [.m3Rom0Rd a, .m3RomxRd a, decodeMbc3WindowRd c.target a]
  | .mbc5 => [.m5Rom0Rd a, .m5RomxRd a, .m5RamRd a]

/-- The rows of the controller's map that take writes. -/
def DecodeCtx.writeRows (c : DecodeCtx) (a : Addr) (d : Byte) : List Instr :=
  match c.variant with
  | .rom => [.romWr a d, .romRamWr a d]
  | .mbc1 => [.m1RamgWr a d, .m1Bank1Wr a d, .m1Bank2Wr a d, .m1ModeWr a d, .m1RamWr a d]
  | .mbc2 => [.m2RombWr a d, .m2RamgWr a d, .m2NopWr a d, .m2RamWr a d]
  | .mbc3 => [.m3RamgWr a d, .m3RombWr a d, .m3SelWr a d, .m3LatchWr a d, decodeMbc3WindowWr c.target a d]
  | .mbc5 => [.m5RamgWr a d, .m5Romb0Wr a d, .m5Romb1Wr a d, .m5RambWr a d, .m5NopWr a d, .m5RamWr a d]

@[simp] theorem decodeMbc3WindowRd_wf (t : Mbc3Target) (a : Addr) :
    (decodeMbc3WindowRd t a).wf = a.within 0xA000 0xBFFF := by cases t <;> rfl

@[simp] theorem decodeMbc3WindowWr_wf (t : Mbc3Target) (a : Addr) (d : Byte) :
    (decodeMbc3WindowWr t a d).wf = a.within 0xA000 0xBFFF := by cases t <;> rfl

theorem decodeControllerRd_eq_firstRow (c : DecodeCtx) (a : Addr) :
    decodeControllerRd c a = firstRow a (c.readRows a) := by
  unfold decodeControllerRd DecodeCtx.readRows
  cases c.variant
  case mbc3 => simp only [decodeMbc3Rd, firstRow, ↓decodeMbc3WindowRd_wf, Instr.wf]
  all_goals rfl

/-- MBC2's two register rows share a window, which address bit 8 splits (R97). -/
theorem decodeControllerWr_eq_firstRow (c : DecodeCtx) (a : Addr) (d : Byte) :
    decodeControllerWr c a d = firstRow a (c.writeRows a d) := by
  unfold decodeControllerWr DecodeCtx.writeRows
  cases c.variant
  case mbc2 =>
    by_cases hb : a.getLsbD 8 = true <;>
      simp only [decodeMbc2Wr, firstRow, Instr.wf, hb, Bool.not_true, Bool.not_false, Bool.and_true,
        Bool.and_false] <;> rfl
  case mbc3 => simp only [decodeMbc3Wr, firstRow, ↓decodeMbc3WindowWr_wf, Instr.wf]
  all_goals rfl

theorem Addr.within_eq_false_iff {lo hi : Nat} {a : Addr} : a.within lo hi = false ↔
    a.toNat < lo ∨ hi < a.toNat := by
  rw [Bool.eq_false_iff, ne_eq, Addr.within_iff]
  omega

/-- The window's row of MBC3 has its own lemma, which has to come before the definition. -/
theorem DecodeCtx.disjoint_readRows (c : DecodeCtx) (a : Addr) : DisjointRows (c.readRows a) := by
  unfold DisjointRows DecodeCtx.readRows
  cases c.variant <;> simp <;> simp [Instr.wf, Addr.within_iff, Addr.within_eq_false_iff] <;> omega

theorem DecodeCtx.disjoint_writeRows (c : DecodeCtx) (a : Addr) (d : Byte) : DisjointRows (c.writeRows a d) := by
  unfold DisjointRows DecodeCtx.writeRows
  cases c.variant <;> simp <;> simp [Instr.wf, Addr.within_iff, Addr.within_eq_false_iff]
  case mbc2 => cases a[8] <;> simp <;> omega
  all_goals omega

/-! ### The word of a transaction (R90) -/

theorem TWord.toNat_make (wr : Bool) (a : Addr) (d : Byte) :
    (TWord.make wr a d).toNat = wr.toNat * 2 ^ 24 + a.toNat * 2 ^ 8 + d.toNat :=
  Laws.TableRow.bits_make wr a d

/-- A word is the concatenation of its three fields. -/
theorem TWord.make_fields (w : TWord) : TWord.make w.isWrite w.addr w.data = w := by
  apply BitVec.eq_of_toNat_eq
  have hw := w.isLt
  rw [TWord.toNat_make, TWord.isWrite, ← BitVec.testBit_toNat, Nat.toNat_testBit]
  simp only [TWord.addr, TWord.data, BitVec.extractLsb'_toNat, Nat.shiftRight_eq_div_pow]
  omega

theorem TWord.eq_wrWord_of_isWrite {w : TWord} (h : w.isWrite = true) : w = wrWord w.addr w.data := by
  have hw := TWord.make_fields w
  rw [h] at hw
  exact hw.symm

/-- D is no input of a read. -/
theorem decode_of_not_isWrite {c : Option DecodeCtx} {w : TWord} (h : w.isWrite = false) :
    decode c (.t w) = decode c (.t (rdWord w.addr)) := by
  cases c with
  | none => rfl
  | some c => simp [decode, decodeBus, h]

/-- Settles O2: the sum is the concatenation's value, and the fields are read back by the lemmas of R90. -/
theorem transactionWordLayout : Obligations.TransactionWordLayout := by
  refine ⟨fun _ _ h => decode_of_not_isWrite h, fun a d => ⟨?write, ?read, Machine.wrWord_isWrite a d,
    wrWord_addr a d, wrWord_data a d, Machine.rdWord_isWrite a, rdWord_addr a, TWord.make_data false a 0⟩⟩
  case write => rw [wrWord, TWord.toNat_make, Bool.toNat_true, Nat.one_mul]
  case read => simp [rdWord, TWord.toNat_make]

/-! ### Host codes (R91) -/

/-- A host code is decoded alike with and without a block. -/
theorem decode_hostCode (c : Option DecodeCtx) (k : HCode) : decode c (.h k) = decodeHost k := by
  cases c <;> rfl

theorem isBus_of_decodeHost {k : HCode} {i : Instr} (h : decodeHost k = .instr i) : i.isBus = false := by
  unfold decodeHost at h
  split_ifs at h <;> cases h <;> rfl

/-- Settles O6: eight codes, each decoded without looking at the context. -/
theorem hostCodesDecode : Obligations.HostCodesDecode := by
  intro c
  simp only [decode_hostCode]
  exact ⟨rfl, rfl, rfl, rfl, rfl, by decide⟩

/-- Settles O1: the ten words are evaluated. -/
theorem sampleWordsDecode : Obligations.SampleWordsDecode := by
  unfold Obligations.SampleWordsDecode
  decide

/-! ### Every decoded operation is in force -/

/-- A row of the table exists in the context and has the word of a read at `a`. -/
theorem DecodeCtx.inForce_of_mem_readRows {c : DecodeCtx} {a : Addr} {i : Instr} (hov : c.overlaid a = false)
    (hi : i ∈ c.readRows a) : i.inForce c = true ∧ encode i = .t (rdWord a) := by
  unfold DecodeCtx.readRows at hi
  cases hv : c.variant <;> rw [hv] at hi <;> revert i
  case mbc3 => cases ht : c.target <;> simp [Instr.inForce, encode, decodeMbc3WindowRd, hv, hov, ht]
  all_goals simp [Instr.inForce, encode, hv, hov]

/-- A row of the table exists in the context and has the word of the write of `d` at `a`. -/
theorem DecodeCtx.inForce_of_mem_writeRows {c : DecodeCtx} {a : Addr} {d : Byte} {i : Instr}
    (hi : i ∈ c.writeRows a d) : i.inForce c = true ∧ encode i = .t (wrWord a d) := by
  unfold DecodeCtx.writeRows at hi
  cases hv : c.variant <;> rw [hv] at hi <;> revert i
  case mbc3 => cases ht : c.target <;> simp [Instr.inForce, encode, decodeMbc3WindowWr, hv, ht]
  all_goals simp [Instr.inForce, encode, hv]

/-! ### A transaction by its address (R93): the disable register, the overlay, the controller -/

/-- The rows of the boot overlay's windows (R94). -/
def overlayRows (a : Addr) : List Instr := [.bootRd a, .bootcRdA a, .bootcRdB a, .bootcRdC a]

theorem disjoint_overlayRows (a : Addr) : DisjointRows (overlayRows a) := by
  simp [DisjointRows, overlayRows, Instr.wf, Addr.within_iff, Addr.within_eq_false_iff]
  omega

/-- Under the overlay the address tells whether its first part takes the read. -/
theorem DecodeCtx.overlay1_of_overlaid {c : DecodeCtx} {a : Addr} (h : c.overlaid a = true) :
    c.overlay1 a = true ↔ a.toNat ≤ 0x00FF := by
  rw [DecodeCtx.overlaid_iff, DecodeCtx.overlay1_iff, DecodeCtx.overlay2_iff] at h
  rw [DecodeCtx.overlay1_iff]
  exact ⟨fun h1 => h1.2, fun ha => ⟨h.elim And.left And.left, ha⟩⟩

/-- Under the overlay the address tells whether its second part takes the read. -/
theorem DecodeCtx.overlay2_of_overlaid {c : DecodeCtx} {a : Addr} (h : c.overlaid a = true) :
    c.overlay2 a = true ↔ 0x0200 ≤ a.toNat ∧ a.toNat ≤ 0x08FF := by
  rw [DecodeCtx.overlaid_iff, DecodeCtx.overlay1_iff] at h
  constructor
  · exact fun h2 => (DecodeCtx.overlay2_iff.1 h2).2.2
  · rintro ⟨hlo, -⟩
    exact h.resolve_left fun h1 => by omega

theorem decodeRd_of_overlaid {c : DecodeCtx} {a : Addr} (h : c.overlaid a = true) :
    decodeRd c a = firstRow a (overlayRows a) := by
  have ha := DecodeCtx.overlaid_iff.1 h
  rw [DecodeCtx.overlay1_of_overlaid h, DecodeCtx.overlay2_of_overlaid h] at ha
  simp only [decodeRd, if_neg (DecodeCtx.ne_disableRegister_of_overlaid h), overlayRows, firstRow, Instr.wf,
    DecodeCtx.overlay1_of_overlaid h, DecodeCtx.overlay2_of_overlaid h, Addr.within_iff]
  grind

theorem decodeRd_eq_instr_iff_of_overlaid {c : DecodeCtx} {a : Addr} {i : Instr} (h : c.overlaid a = true) :
    decodeRd c a = .instr i ↔ i ∈ overlayRows a ∧ i.wf = true := by
  rw [decodeRd_of_overlaid h, firstRow_eq_instr_iff (disjoint_overlayRows a)]

theorem decodeRd_eq_firstRow {c : DecodeCtx} {a : Addr} (hne : a ≠ 0xFF50#16) (h : c.overlaid a = false) :
    decodeRd c a = firstRow a (c.readRows a) := by
  obtain ⟨h1, h2⟩ := Bool.or_eq_false_iff.1 h
  rw [decodeRd, if_neg hne, h1, h2, ← decodeControllerRd_eq_firstRow]
  rfl

theorem decodeRd_eq_instr_iff {c : DecodeCtx} {a : Addr} {i : Instr} (hne : a ≠ 0xFF50#16)
    (h : c.overlaid a = false) : decodeRd c a = .instr i ↔ i ∈ c.readRows a ∧ i.wf = true := by
  rw [decodeRd_eq_firstRow hne h, firstRow_eq_instr_iff (c.disjoint_readRows a)]

theorem decodeWr_eq_instr_iff {c : DecodeCtx} {a : Addr} {d : Byte} {i : Instr} (hne : a ≠ 0xFF50#16) :
    decodeWr c a d = .instr i ↔ i ∈ c.writeRows a d ∧ i.wf = true := by
  rw [decodeWr, if_neg hne, decodeControllerWr_eq_firstRow, firstRow_eq_instr_iff (c.disjoint_writeRows a d)]

/-- The row whose window the address lies in is one of the part of the overlay that takes the read. -/
theorem inForce_of_mem_overlayRows {c : DecodeCtx} {a : Addr} {i : Instr} (h : c.overlaid a = true)
    (hi : i ∈ overlayRows a) (hwf : i.wf = true) : i.inForce c = true ∧ encode i = .t (rdWord a) := by
  simp only [overlayRows, List.mem_cons, List.not_mem_nil, or_false] at hi
  obtain rfl | rfl | rfl | rfl := hi <;> simp only [Instr.wf, Addr.within_iff] at hwf <;> refine ⟨?_, rfl⟩
  · exact (DecodeCtx.overlay1_of_overlaid h).2 hwf.2
  all_goals exact (DecodeCtx.overlay2_of_overlaid h).2 (by omega)

theorem decodeRd_inForce {c : DecodeCtx} {a : Addr} {i : Instr} (h : decodeRd c a = .instr i) :
    i.wf = true ∧ i.inForce c = true ∧ encode i = .t (rdWord a) := by
  by_cases hff : a = 0xFF50#16
  · rw [decodeRd, if_pos hff] at h
    cases h
    exact ⟨rfl, rfl, hff ▸ rfl⟩
  · cases hov : c.overlaid a with
    | true =>
      obtain ⟨hi, hwf⟩ := (decodeRd_eq_instr_iff_of_overlaid hov).1 h
      exact ⟨hwf, inForce_of_mem_overlayRows hov hi hwf⟩
    | false =>
      obtain ⟨hi, hwf⟩ := (decodeRd_eq_instr_iff hff hov).1 h
      exact ⟨hwf, DecodeCtx.inForce_of_mem_readRows hov hi⟩

theorem decodeWr_inForce {c : DecodeCtx} {a : Addr} {d : Byte} {i : Instr} (h : decodeWr c a d = .instr i) :
    i.wf = true ∧ i.inForce c = true ∧ encode i = .t (wrWord a d) := by
  by_cases hff : a = 0xFF50#16
  · rw [decodeWr, if_pos hff] at h
    cases h
    exact ⟨rfl, rfl, hff ▸ rfl⟩
  · obtain ⟨hi, hwf⟩ := (decodeWr_eq_instr_iff hff).1 h
    exact ⟨hwf, DecodeCtx.inForce_of_mem_writeRows hi⟩

/-- Settles O4: a word is a write or a read, and each is decoded to a row of the table that takes it. -/
theorem decodedOperationIsInForce : Obligations.DecodedOperationIsInForce := by
  intro c w i h
  cases hw : w.isWrite with
  | true =>
    rw [TWord.eq_wrWord_of_isWrite hw, decode_wrWord] at h
    rw [if_pos rfl, TWord.eq_wrWord_of_isWrite hw]
    exact decodeWr_inForce h
  | false =>
    rw [decode_of_not_isWrite hw, decode_rdWord] at h
    exact decodeRd_inForce h

/-! ### Every word that is rejected is so by its address -/

theorem decodeRd_eq_rejected {c : DecodeCtx} {a : Addr} {e : Reject} (h : decodeRd c a = .rejected e) :
    e = .notClaimed a := by
  by_cases hff : a = 0xFF50#16
  · rw [decodeRd, if_pos hff] at h
    cases h
  · cases hov : c.overlaid a with
    | true => exact firstRow_eq_rejected ((decodeRd_of_overlaid hov).symm.trans h)
    | false => exact firstRow_eq_rejected ((decodeRd_eq_firstRow hff hov).symm.trans h)

theorem decodeWr_eq_rejected {c : DecodeCtx} {a : Addr} {d : Byte} {e : Reject} (h : decodeWr c a d = .rejected e) :
    e = .notClaimed a := by
  unfold decodeWr at h
  split_ifs at h
  exact firstRow_eq_rejected ((decodeControllerWr_eq_firstRow c a d).symm.trans h)

/-- With a block, the only reason to reject a transaction word is its address (R93 step 4). -/
theorem decode_eq_rejected {c : DecodeCtx} {w : TWord} {e : Reject} (h : decode (some c) (.t w) = .rejected e) :
    e = .notClaimed w.addr := by
  unfold decode decodeBus at h
  dsimp only at h
  split_ifs at h
  · exact decodeWr_eq_rejected h
  · exact decodeRd_eq_rejected h

/-! ### Every operation in force is decoded -/

theorem Addr.ne_disableRegister {lo hi : Nat} {a : Addr} (h : a.within lo hi = true) (hhi : hi < 0xFF50) :
    a ≠ 0xFF50#16 := by
  rintro rfl
  exact absurd (Addr.within_iff.1 h).2 (Nat.not_le.2 hhi)

/-- The RAM window lies above the overlay. -/
theorem DecodeCtx.overlaid_ramWindow (c : DecodeCtx) {a : Addr} (h : a.within 0xA000 0xBFFF = true) :
    c.overlaid a = false := by
  rw [Addr.within_iff] at h
  rw [Bool.eq_false_iff, ne_eq, DecodeCtx.overlaid_iff, DecodeCtx.overlay1_iff, DecodeCtx.overlay2_iff]
  omega

theorem decode_rdWord_of_mem_readRows {c : DecodeCtx} {a : Addr} {i : Instr} {lo hi : Nat}
    (hin : a.within lo hi = true) (hhi : hi < 0xFF50) (hov : c.overlaid a = false)
    (hmem : i ∈ c.readRows a) (hwf : i.wf = true) : decode (some c) (.t (rdWord a)) = .instr i := by
  rw [decode_rdWord, decodeRd_eq_instr_iff (Addr.ne_disableRegister hin hhi) hov]
  exact ⟨hmem, hwf⟩

theorem decode_wrWord_of_mem_writeRows {c : DecodeCtx} {a : Addr} {d : Byte} {i : Instr} {lo hi : Nat}
    (hin : a.within lo hi = true) (hhi : hi < 0xFF50) (hmem : i ∈ c.writeRows a d) (hwf : i.wf = true) :
    decode (some c) (.t (wrWord a d)) = .instr i := by
  rw [decode_wrWord, decodeWr_eq_instr_iff (Addr.ne_disableRegister hin hhi)]
  exact ⟨hmem, hwf⟩

/-- Settles O3, by the kinds of row: the disable register, the overlay, a read of ROM, a read of the RAM window, a
write, a host code. A controller's row in force is a row of its table, and the table answers it. -/
theorem decodeOfEncodeIsIdentity : Obligations.DecodeOfEncodeIsIdentity := by
  intro c i hwf hf
  cases i <;> simp only [Instr.inForce, Bool.and_eq_true, Bool.not_eq_true', beq_iff_eq] at hf
  case ff50Rd => exact decode_rdWord c _
  case ff50Wr d => exact decode_wrWord c _ d
  case bootRd a => exact (decode_rdWord c a).trans (decodeRd_of_overlay1 hf)
  case bootcRdA a | bootcRdB a | bootcRdC a =>
    rw [encode, decode_rdWord, decodeRd_eq_instr_iff_of_overlaid (DecodeCtx.overlaid_iff.2 (.inr hf))]
    exact ⟨by simp [overlayRows], hwf⟩
  case romRd a | m1Rom0Rd a | m1RomxRd a | m2Rom0Rd a | m2RomxRd a | m3Rom0Rd a | m3RomxRd a | m5Rom0Rd a
      | m5RomxRd a =>
    exact decode_rdWord_of_mem_readRows hwf (by decide) hf.2 (by simp [DecodeCtx.readRows, hf.1]) hwf
  case romRamRd a | m1RamRd a | m2RamRd a | m5RamRd a =>
    exact decode_rdWord_of_mem_readRows hwf (by decide) (c.overlaid_ramWindow hwf)
      (by simp [DecodeCtx.readRows, hf]) hwf
  case m3RamRd a | m3NoneRd a | m3RtcsRd a | m3RtcmRd a | m3RtchRd a | m3RtcdlRd a | m3RtcdhRd a =>
    exact decode_rdWord_of_mem_readRows hwf (by decide) (c.overlaid_ramWindow hwf)
      (by simp [DecodeCtx.readRows, decodeMbc3WindowRd, hf]) hwf
  case m2RamgWr a d | m2RombWr a d =>
    exact decode_wrWord_of_mem_writeRows (Bool.and_eq_true_iff.1 hwf).1 (by decide)
      (by simp [DecodeCtx.writeRows, hf]) hwf
  case m3RamWr a d | m3NoneWr a d | m3RtcsWr a d | m3RtcmWr a d | m3RtchWr a d | m3RtcdlWr a d | m3RtcdhWr a d =>
    exact decode_wrWord_of_mem_writeRows hwf (by decide) (by simp [DecodeCtx.writeRows, decodeMbc3WindowWr, hf]) hwf
  case powerOn | flush | snapshot | restore | powerOff => rfl
  case romWr a d | romRamWr a d | m1RamgWr a d | m1Bank1Wr a d | m1Bank2Wr a d | m1ModeWr a d | m1RamWr a d
      | m2NopWr a d | m2RamWr a d | m3RamgWr a d | m3RombWr a d | m3SelWr a d | m3LatchWr a d | m5RamgWr a d
      | m5Romb0Wr a d | m5Romb1Wr a d | m5RambWr a d | m5NopWr a d | m5RamWr a d =>
    exact decode_wrWord_of_mem_writeRows hwf (by decide) (by simp [DecodeCtx.writeRows, hf]) hwf

end Sys2Proof
end

section
/-! SUPPORT. No step from a well-formed state stops with a fault, and every transaction word completes (30_encoding.md
R100, 60_exceptions.md R381, R382): every offset that an operation in force reaches lies in its array. -/

namespace Sys2Proof

/-- The window reaches RAM only where there is RAM (R197). -/
theorem ramBanks_ne_zero_of_mbc3Target {e : Bool} {sel : BitVec 4} {n : Nat}
    (h : mbc3Target e sel n = .ram) : n ≠ 0 := by
  rintro rfl
  unfold mbc3Target at h
  split_ifs at h
  contradiction

namespace Machine

/-! ### Offsets lie in their arrays -/

theorem Block.params_inRange {b : Block} (h : b.wf = true) : b.params.inRange = true := by
  obtain ⟨hparams, -⟩ := Block.wf_iff.1 h
  exact (Params.wf_iff.1 hparams).1

theorem Block.rom_size {b : Block} (h : b.wf = true) : b.params.rom.size = b.params.romSize := by
  obtain ⟨hparams, -⟩ := Block.wf_iff.1 h
  obtain ⟨-, hsize, -⟩ := Params.wf_iff.1 hparams
  exact hsize

theorem Block.ctrl_variant {b : Block} (h : b.wf = true) : b.ctrl.variant = b.params.variant := by
  obtain ⟨-, hvariant, -⟩ := Block.wf_iff.1 h
  exact hvariant

theorem Block.ram_size {b : Block} (h : b.wf = true) : b.ram.size = b.params.ramSize := by
  obtain ⟨-, -, -, hsize, -⟩ := Block.wf_iff.1 h
  exact hsize

theorem Block.ram_wf {b : Block} (h : b.wf = true) : b.ram.wf = true := by
  obtain ⟨-, -, -, -, hram, -⟩ := Block.wf_iff.1 h
  exact hram

theorem Block.romBanks_pos {b : Block} (h : b.wf = true) : 0 < b.params.romBanks :=
  Nat.lt_of_lt_of_le (by decide) (Params.romBanks_pos (Block.params_inRange h))

theorem Block.romOffset_lt {b : Block} (h : b.wf = true) (k : Nat) (a : Addr) :
    b.params.romOffset k a < b.params.rom.size := by
  rw [Block.rom_size h]
  exact b.params.romOffset_lt k a (Block.romBanks_pos h)

/-- The offset within a window is that in bank 0. -/
theorem Block.romSlice_lt {b : Block} (h : b.wf = true) (a : Addr) : romSlice a < b.params.rom.size := by
  simpa [Params.romOffset] using Block.romOffset_lt h 0 a

theorem Block.romMod_lt {b : Block} (h : b.wf = true) (n : Nat) : n % b.params.romSize < b.params.rom.size := by
  rw [Block.rom_size h]
  exact Nat.mod_lt n (Nat.mul_pos (Block.romBanks_pos h) (by decide))

theorem Block.ramOffset_lt {b : Block} (h : b.wf = true) (hn : b.params.ramBanks ≠ 0) (k : Nat) (a : Addr) :
    b.params.ramOffset k a < b.ram.size := by
  rw [Block.ram_size h]
  exact b.params.ramOffset_lt k a (Nat.pos_of_ne_zero hn)

theorem Block.ramSlice_lt {b : Block} (h : b.wf = true) (hn : b.params.ramBanks ≠ 0) (a : Addr) :
    ramSlice a < b.ram.size := by
  simpa [Params.ramOffset] using Block.ramOffset_lt h hn 0 a

/-- An MBC2 has one bank of RAM (R351), of which it uses 512 cells. -/
theorem Block.mbc2Slice_lt {b : Block} (h : b.wf = true) (hv : b.params.variant = .mbc2) (a : Addr) :
    mbc2Slice a < b.ram.size := by
  rw [Block.ram_size h, Params.ramSize, Params.mbc2_ramBanks (Block.params_inRange h) hv, Config.ramBankSize,
    mbc2Slice_eq]
  omega

theorem Block.bootSlice_lt {b : Block} (h : b.wf = true) (a : Addr) : bootSlice a < b.params.boot.size := by
  rw [Params.boot_size (Block.params_inRange h), bootSlice_eq]
  split_ifs <;> omega

/-- The second overlay window is there in colour mode only, where the boot image has 0x0800 bytes. -/
theorem Block.bootHighOffset_lt {b : Block} (h : b.wf = true) {a : Addr} (ho : b.ctx.overlay2 a = true) :
    bootHighOffset a < b.params.boot.size := by
  obtain ⟨-, hcgb, hlo, hhi⟩ := DecodeCtx.overlay2_iff.1 ho
  have hcgb : b.params.cgb = true := hcgb
  rw [Params.boot_size (Block.params_inRange h), if_pos hcgb, bootHighOffset, BitVec.toNat_sub_of_le (by bv_omega)]
  bv_omega

/-! ### When an operation completes -/

theorem Safe.of_completes {o : Out} (h : Completes o) : Safe o := by
  cases o with
  | next t => trivial
  | fault r => exact h
  | refused r => trivial

theorem Completes.deliver (s : State) (v : Byte) : Completes (s.deliver v) := trivial

theorem Completes.complete (s : State) : Completes s.complete := trivial

theorem Completes.commit (s : State) (b : Block) : Completes (s.commit b) := trivial

theorem Completes.deliverFrom {s : State} {sp : Space} {x : Buf} {i : Nat} (h : i < x.size) :
    Completes (s.deliverFrom sp x i) := by
  rw [State.deliverFrom_some (Buf.get_of_lt h)]
  trivial

theorem Completes.writeRam {s : State} {b : Block} {i : Nat} {v : Byte} (hw : b.wf = true) (h : i < b.ram.size) :
    Completes (s.writeRam b i v) := by
  obtain ⟨ram, -, -, heq⟩ := State.writeRam_of_lt (s := s) (v := v) (Block.ram_wf hw) h
  rw [heq]
  trivial

theorem Completes.readWindow {s : State} {b : Block} {shown : Bool} {i : Nat} (h : shown = true → i < b.ram.size) :
    Completes (s.readWindow b shown i) := by
  cases shown with
  | true => exact .deliverFrom (h rfl)
  | false => trivial

theorem Completes.writeWindow {s : State} {b : Block} {shown : Bool} {i : Nat} {v : Byte} (hw : b.wf = true)
    (h : shown = true → i < b.ram.size) : Completes (s.writeWindow b shown i v) := by
  cases shown with
  | true => exact .writeRam hw (h rfl)
  | false => trivial

theorem Completes.onBlock {s : State} {b : Block} {f : Block → Out} (hb : s.block = some b) (hf : Completes (f b)) :
    Completes (s.onBlock f) := by
  rwa [State.onBlock_some hb]

theorem Completes.onRom {s : State} {b : Block} {f : Block → Out} (hb : s.block = some b)
    (hv : b.ctrl.variant = .rom) (hf : Completes (f b)) : Completes (s.onRom f) := by
  cases hc : b.ctrl <;> rw [hc] at hv <;> cases hv
  rwa [State.onRom_some hb hc]

theorem Completes.onMbc1 {s : State} {b : Block} {f : Block → Mbc1 → Out} (hb : s.block = some b)
    (hv : b.ctrl.variant = .mbc1) (hf : ∀ r, Completes (f b r)) : Completes (s.onMbc1 f) := by
  cases hc : b.ctrl <;> rw [hc] at hv <;> cases hv
  rw [State.onMbc1_some hb hc]
  exact hf _

theorem Completes.onMbc2 {s : State} {b : Block} {f : Block → Mbc2 → Out} (hb : s.block = some b)
    (hv : b.ctrl.variant = .mbc2) (hf : ∀ r, Completes (f b r)) : Completes (s.onMbc2 f) := by
  cases hc : b.ctrl <;> rw [hc] at hv <;> cases hv
  rw [State.onMbc2_some hb hc]
  exact hf _

theorem Completes.onMbc3 {s : State} {b : Block} {f : Block → Mbc3 → Rtc → Out} (hb : s.block = some b)
    (hv : b.ctrl.variant = .mbc3) (hf : ∀ r k, Completes (f b r k)) : Completes (s.onMbc3 f) := by
  cases hc : b.ctrl <;> rw [hc] at hv <;> cases hv
  rw [State.onMbc3_some hb hc]
  exact hf _ _

theorem Completes.onMbc5 {s : State} {b : Block} {f : Block → Mbc5 → Out} (hb : s.block = some b)
    (hv : b.ctrl.variant = .mbc5) (hf : ∀ r, Completes (f b r)) : Completes (s.onMbc5 f) := by
  cases hc : b.ctrl <;> rw [hc] at hv <;> cases hv
  rw [State.onMbc5_some hb hc]
  exact hf _

/-- The window's row in force is the one that the registers select. -/
theorem Completes.onWindow {s : State} {b : Block} {w : Mbc3Target} {f : Block → Mbc3 → Rtc → Out}
    (hb : s.block = some b) (hv : b.ctrl.variant = .mbc3) (ht : b.ctx.target = w) (hf : ∀ r k, Completes (f b r k)) :
    Completes (s.onWindow w f) := by
  cases hc : b.ctrl <;> rw [hc] at hv <;> cases hv
  rw [State.onWindow_some hb hc (by simpa [DecodeCtx.target, Block.ctx, hc] using ht)]
  exact hf _ _

/-- On a well-formed block every bus transaction whose row is in force completes. -/
theorem exec_bus_completes {i : Instr} {s : State} {b : Block} (hb : s.block = some b) (hw : b.wf = true)
    (hf : i.inForce b.ctx = true) (hi : i.isBus = true) : Completes (exec i s) := by
  have hctrl : b.ctrl.variant = b.ctx.variant := Block.ctrl_variant hw
  cases i <;> simp only [Instr.inForce, Bool.and_eq_true, beq_iff_eq, ← hctrl] at hf
  case ff50Rd => exact .onBlock hb (.deliver _ _)
  case ff50Wr d => exact .onBlock hb (.commit _ _)
  case bootRd a =>
    have hoff : b.bootOff = false := (DecodeCtx.overlay1_iff.1 hf).1
    refine .onBlock hb ?_
    rw [if_neg (by simp [hoff])]
    exact .deliverFrom (Block.bootSlice_lt hw a)
  case bootcRdA a | bootcRdB a | bootcRdC a =>
    obtain ⟨hoff, hcgb, -⟩ := DecodeCtx.overlay2_iff.1 hf
    have hshown : ¬ (b.bootOff || !b.params.cgb) = true := by simp_all [Block.ctx]
    refine .onBlock hb ?_
    rw [if_neg hshown]
    exact .deliverFrom (Block.bootHighOffset_lt hw hf)
  case romRd a => exact .onRom hb hf.1 (.deliverFrom (Block.romMod_lt hw _))
  case romWr a d => exact .onRom hb hf (.complete _)
  case romRamRd a => exact .onRom hb hf (.readWindow fun h => Block.ramSlice_lt hw (by simpa using h) a)
  case romRamWr a d => exact .onRom hb hf (.writeWindow hw fun h => Block.ramSlice_lt hw (by simpa using h) a)
  case m1Rom0Rd a | m1RomxRd a => exact .onMbc1 hb hf.1 fun _ => .deliverFrom (Block.romOffset_lt hw _ a)
  case m1RamgWr a d | m1Bank1Wr a d | m1Bank2Wr a d | m1ModeWr a d => exact .onMbc1 hb hf fun _ => .commit _ _
  case m1RamRd a =>
    exact .onMbc1 hb hf fun _ => .readWindow fun h => Block.ramOffset_lt hw (Params.ramShown_eq_true.1 h).2 _ a
  case m1RamWr a d =>
    exact .onMbc1 hb hf fun _ => .writeWindow hw fun h => Block.ramOffset_lt hw (Params.ramShown_eq_true.1 h).2 _ a
  case m2Rom0Rd a => exact .onMbc2 hb hf.1 fun _ => .deliverFrom (Block.romSlice_lt hw a)
  case m2RomxRd a => exact .onMbc2 hb hf.1 fun _ => .deliverFrom (Block.romOffset_lt hw _ a)
  case m2RamgWr a d | m2RombWr a d => exact .onMbc2 hb hf fun _ => .commit _ _
  case m2NopWr a d => exact .onMbc2 hb hf fun _ => .complete _
  case m2RamRd a =>
    have hlt := Block.mbc2Slice_lt hw (hctrl.symm.trans hf) a
    refine .onMbc2 hb hf fun r => ?_
    split
    · rw [Buf.get_of_lt hlt]
      exact .deliver _ _
    · exact .deliver _ _
  case m2RamWr a d =>
    exact .onMbc2 hb hf fun _ => .writeWindow hw fun _ => Block.mbc2Slice_lt hw (hctrl.symm.trans hf) a
  case m3Rom0Rd a => exact .onMbc3 hb hf.1 fun _ _ => .deliverFrom (Block.romSlice_lt hw a)
  case m3RomxRd a => exact .onMbc3 hb hf.1 fun _ _ => .deliverFrom (Block.romOffset_lt hw _ a)
  case m3RamgWr a d | m3RombWr a d | m3SelWr a d | m3LatchWr a d => exact .onMbc3 hb hf fun _ _ => .commit _ _
  case m3RamRd a =>
    exact .onWindow hb hf.1 hf.2 fun _ _ => .deliverFrom (Block.ramOffset_lt hw (ramBanks_ne_zero_of_mbc3Target hf.2) _ a)
  case m3RamWr a d =>
    exact .onWindow hb hf.1 hf.2 fun _ _ => .writeRam hw (Block.ramOffset_lt hw (ramBanks_ne_zero_of_mbc3Target hf.2) _ a)
  case m3NoneWr a d => exact .onWindow hb hf.1 hf.2 fun _ _ => .complete _
  case m3NoneRd a | m3RtcsRd a | m3RtcmRd a | m3RtchRd a | m3RtcdlRd a | m3RtcdhRd a =>
    exact .onWindow hb hf.1 hf.2 fun _ _ => .deliver _ _
  case m3RtcsWr a d | m3RtcmWr a d | m3RtchWr a d | m3RtcdlWr a d | m3RtcdhWr a d =>
    exact .onWindow hb hf.1 hf.2 fun _ _ => .commit _ _
  case m5Rom0Rd a => exact .onMbc5 hb hf.1 fun _ => .deliverFrom (Block.romSlice_lt hw a)
  case m5RomxRd a => exact .onMbc5 hb hf.1 fun _ => .deliverFrom (Block.romOffset_lt hw _ a)
  case m5RamgWr a d | m5Romb0Wr a d | m5Romb1Wr a d | m5RambWr a d => exact .onMbc5 hb hf fun _ => .commit _ _
  case m5NopWr a d => exact .onMbc5 hb hf fun _ => .complete _
  case m5RamRd a =>
    exact .onMbc5 hb hf fun _ => .readWindow fun h => Block.ramOffset_lt hw (Params.ramShown_eq_true.1 h).2 _ a
  case m5RamWr a d =>
    exact .onMbc5 hb hf fun _ => .writeWindow hw fun h => Block.ramOffset_lt hw (Params.ramShown_eq_true.1 h).2 _ a
  all_goals cases hi

/-! ### Host operations -/

theorem Safe.onBlock {s : State} {f : Block → Out} (hf : ∀ b, Safe (f b)) : Safe (s.onBlock f) := by
  unfold State.onBlock
  split
  · exact hf _
  · trivial

theorem execPowerOn_safe (s : State) : Safe (execPowerOn s) := by
  unfold execPowerOn
  split
  · trivial
  split
  · trivial
  split <;> trivial

theorem execFlush_safe (s : State) : Safe (execFlush s) := by
  refine .onBlock fun b => ?_
  split
  · trivial
  · split_ifs <;> trivial

theorem execSnapshot_safe (s : State) : Safe (execSnapshot s) := .onBlock fun _ => trivial

theorem execRestore_safe (s : State) : Safe (execRestore s) := by
  refine .onBlock fun b => ?_
  split <;> trivial

theorem exec_host_safe {i : Instr} (hi : i.isBus = false) (s : State) : Safe (exec i s) := by
  obtain hbus | rfl | rfl | rfl | rfl | rfl := isBus_or_isHost i
  · cases hbus.symm.trans hi
  · exact execPowerOn_safe s
  · exact execFlush_safe s
  · exact execSnapshot_safe s
  · exact execRestore_safe s
  · trivial

/-! ### The step -/

theorem State.reject_safe (s : State) (e : Reject) : Safe (s.reject e) := by cases e <;> trivial

/-- A transaction word is an operation in force, which completes, or an unclaimed address, which is reported. -/
theorem step_bus_completes {s : State} {b : Block} {n : Nat} {w : TWord} {q : List Request} (h : s.wf = true)
    (hb : s.block = some b) (hq : s.pending = { now := n, op := .bus w } :: q) : Completes (step s) := by
  have hdec : s.decoded (.bus w) = decode (some b.ctx) (.t w) := by simp only [State.decoded, hb]; rfl
  cases hd : s.decoded (.bus w) with
  | instr i =>
    obtain ⟨-, hforce, henc⟩ := decodedOperationIsInForce b.ctx w i (hdec.symm.trans hd)
    rw [step_of_decoded_instr hq hd]
    exact exec_bus_completes hb (State.block_wf h hb) hforce (by rw [Instr.isBus, henc])
  | rejected e =>
    obtain rfl := decode_eq_rejected (hdec.symm.trans hd)
    rw [step_of_decoded_rejected hq hd]
    trivial

/-- A host operation never faults, whatever the state. -/
theorem step_host_safe {s : State} {n : Nat} {k : HCode} {x : HostArgs} {q : List Request}
    (hq : s.pending = { now := n, op := .host k x } :: q) : Safe (step s) := by
  cases hd : s.decoded (.host k x) with
  | instr i =>
    rw [step_of_decoded_instr hq hd]
    exact exec_host_safe (isBus_of_decodeHost ((decode_hostCode _ k).symm.trans hd)) _
  | rejected e =>
    rw [step_of_decoded_rejected hq hd]
    exact State.reject_safe _ e

/-- Settles O59, by what waits first: nothing, a transaction with or without a block, a host operation. -/
theorem everyTransactionCompletes : Obligations.EveryTransactionCompletes := by
  intro s h
  refine ⟨?_, fun b n w q hb hq => step_bus_completes h hb hq⟩
  cases hq : s.pending with
  | nil =>
    rw [step_of_pending_nil hq]
    trivial
  | cons r q =>
    obtain ⟨n, w | ⟨k, x⟩⟩ := r
    · cases hb : s.block with
      | none =>
        rw [step_of_decoded_rejected (e := .noBlock) hq (by simp only [State.decoded, hb]; rfl)]
        exact State.reject_safe _ _
      | some b => exact .of_completes (step_bus_completes h hb hq)
    · exact step_host_safe hq

end Machine
end Sys2Proof
end

section
/-! SUPPORT. The cartridge front decoder (40_front_decoder.md): the addresses it claims (R121), its disable register
(R128, R129), the reads in its overlay windows (R126, R127), and that no bus transaction restores the overlay (R130). -/

namespace Sys2Proof

/-! ### The claimed addresses (R121) -/

theorem accepts_iff {a : Addr} : accepts a = true ↔
    a.toNat ≤ 0x7FFF ∨ (0xA000 ≤ a.toNat ∧ a.toNat ≤ 0xBFFF) ∨ a = 0xFF50#16 := by
  simp [accepts, Addr.within_iff, or_assoc]

/-- Beside the disable register only the controller's addresses are claimed. -/
theorem accepts_iff_of_ne {a : Addr} (hne : a ≠ 0xFF50#16) : accepts a = true ↔
    a.toNat ≤ 0x7FFF ∨ (0xA000 ≤ a.toNat ∧ a.toNat ≤ 0xBFFF) := by
  rw [accepts_iff]
  tauto

/-- The windows of a controller's read rows make up the ROM and RAM windows (R95 to R99). As in
`DecodeCtx.disjoint_readRows`, the lemma on MBC3's window row has to come before the definition. -/
theorem DecodeCtx.accepts_iff_exists_readRow (c : DecodeCtx) {a : Addr} (hne : a ≠ 0xFF50#16) :
    accepts a = true ↔ ∃ i ∈ c.readRows a, i.wf = true := by
  rw [accepts_iff_of_ne hne]
  unfold DecodeCtx.readRows
  cases c.variant <;> simp <;> simp [Instr.wf, Addr.within_iff] <;> omega

/-- The windows of a controller's write rows make up the same two windows. -/
theorem DecodeCtx.accepts_iff_exists_writeRow (c : DecodeCtx) {a : Addr} (d : Byte) (hne : a ≠ 0xFF50#16) :
    accepts a = true ↔ ∃ i ∈ c.writeRows a d, i.wf = true := by
  rw [accepts_iff_of_ne hne]
  unfold DecodeCtx.writeRows
  cases c.variant <;> simp <;> simp [Instr.wf, Addr.within_iff]
  case mbc2 => cases a[8] <;> simp <;> omega
  all_goals omega

/-- The overlay lies in the ROM window. -/
theorem DecodeCtx.accepts_of_overlaid {c : DecodeCtx} {a : Addr} (h : c.overlaid a = true) : accepts a = true := by
  rw [DecodeCtx.overlaid_iff, DecodeCtx.overlay1_iff, DecodeCtx.overlay2_iff] at h
  exact accepts_iff.2 (.inl (by omega))

theorem DecodeCtx.exists_decodeRd_of_overlaid {c : DecodeCtx} {a : Addr} (h : c.overlaid a = true) :
    ∃ i, decodeRd c a = .instr i := by
  obtain h1 | h2 := DecodeCtx.overlaid_iff.1 h
  · exact ⟨_, decodeRd_of_overlay1 h1⟩
  · obtain hd | hd | hd := decodeRd_of_overlay2 h2 <;> exact ⟨_, hd⟩

theorem accepts_iff_decodeRd (c : DecodeCtx) (a : Addr) : accepts a = true ↔ ∃ i, decodeRd c a = .instr i := by
  by_cases hff : a = 0xFF50#16
  · exact iff_of_true (accepts_iff.2 (.inr (.inr hff))) ⟨.ff50Rd, by rw [decodeRd, if_pos hff]⟩
  cases hov : c.overlaid a with
  | true => exact iff_of_true (DecodeCtx.accepts_of_overlaid hov) (DecodeCtx.exists_decodeRd_of_overlaid hov)
  | false => simp only [c.accepts_iff_exists_readRow hff, decodeRd_eq_instr_iff hff hov]

theorem accepts_iff_decodeWr (c : DecodeCtx) (a : Addr) (d : Byte) :
    accepts a = true ↔ ∃ i, decodeWr c a d = .instr i := by
  by_cases hff : a = 0xFF50#16
  · exact iff_of_true (accepts_iff.2 (.inr (.inr hff))) ⟨.ff50Wr d, by rw [decodeWr, if_pos hff]⟩
  · simp only [c.accepts_iff_exists_writeRow d hff, decodeWr_eq_instr_iff hff]

/-- A word is a write or a read, and each decodes exactly at a claimed address. -/
theorem accepts_iff_decode (c : DecodeCtx) (w : TWord) :
    accepts w.addr = true ↔ ∃ i, decode (some c) (.t w) = .instr i := by
  cases hw : w.isWrite with
  | true => rw [accepts_iff_decodeWr c w.addr w.data, ← decode_wrWord, ← TWord.eq_wrWord_of_isWrite hw]
  | false => rw [accepts_iff_decodeRd c w.addr, decode_of_not_isWrite hw, decode_rdWord]

/-- Settles O5: a word that decodes to no operation is rejected, and its address is the only reason there is. -/
theorem exactlyClaimedAddressesDecode : Obligations.ExactlyClaimedAddressesDecode := by
  intro c w
  refine ⟨accepts_iff_decode c w, accepts_iff, fun hnot => ?_⟩
  cases hd : decode (some c) (.t w) with
  | instr i => cases hnot.symm.trans ((accepts_iff_decode c w).2 ⟨i, hd⟩)
  | rejected e => rw [decode_eq_rejected hd]

namespace Machine

/-! ### The overlay stays off (R130) -/

theorem WriteEffect.bootOff_eq_true {i : Instr} {now : Nat} {b b' : Block} (he : WriteEffect i now b b')
    (h : b.bootOff = true) : b'.bootOff = true := by
  cases he with
  | overlayOff => rfl
  | gate c e => exact (Block.afterEnableWrite_bootOff _ e now).trans h
  | _ => exact h

/-- Settles O12: a read leaves the block, and no effect of a write clears `bootOff`. -/
theorem busNeverRestoresOverlay : Obligations.BusNeverRestoresOverlay := by
  intro i s t b hi hb hoff ht
  obtain ⟨c, hc, ⟨-, v, rfl⟩ | ⟨-, c', he, rfl⟩⟩ := exec_bus hi ht
  · exact ⟨b, hb, hoff⟩
  · obtain rfl := Option.some.inj (hc.symm.trans hb)
    exact ⟨c', rfl, he.bootOff_eq_true hoff⟩

/-! ### The disable register (R128, R129) -/

theorem execFf50Wr_eq {s : State} {b : Block} (hb : s.block = some b) (d : Byte) :
    execFf50Wr d s = .next { s with block := some { b with bootOff := true }, result := .done } :=
  State.onBlock_some hb _

theorem execFf50Rd_eq {s : State} {b : Block} (hb : s.block = some b) :
    execFf50Rd s = .next { s with result := .byte 0xFF#8 } :=
  State.onBlock_some hb _

/-- Settles O10: both meanings run on whatever block there is. -/
theorem disableRegister : Obligations.DisableRegister :=
  fun _ _ d hb => ⟨execFf50Wr_eq hb d, execFf50Rd_eq hb⟩

/-! ### Reads in the overlay windows (R126, R127) -/

theorem execBootRd_eq {s : State} {b : Block} (hb : s.block = some b) (hoff : b.bootOff = false) (a : Addr) :
    execBootRd a s = s.readBoot b (a.toNat % 0x100) := by
  rw [execBootRd, State.onBlock_some hb, if_neg (by simp [hoff]), bootSlice_eq]

/-- From 0x0100 on, and so in all of the second window, the subtraction of R127 does not wrap. -/
theorem bootHighOffset_eq {a : Addr} (ha : 0x0100 ≤ a.toNat) : bootHighOffset a = a.toNat - 0x0100 := by
  rw [bootHighOffset, BitVec.toNat_sub_of_le (by bv_omega)]
  rfl

theorem State.readBootHigh_eq {s : State} {b : Block} {a : Addr} (hb : s.block = some b) (hoff : b.bootOff = false)
    (hcgb : b.params.cgb = true) (ha : 0x0100 ≤ a.toNat) : s.readBootHigh a = s.readBoot b (a.toNat - 0x0100) := by
  rw [State.readBootHigh, State.onBlock_some hb, if_neg (by simp [hoff, hcgb]), bootHighOffset_eq ha]

/-- Settles O11: each offset lies in the image, so the read delivers its byte; the three rows share one meaning. -/
theorem bootWindowReads : Obligations.BootWindowReads := by
  intro s b a hb hw hoff
  refine ⟨?first, fun hcgb hlo hhi => ?second⟩
  case first =>
    have hlt := Block.bootSlice_lt hw a
    rw [bootSlice_eq] at hlt
    obtain ⟨v, hget, hread⟩ := State.deliverFrom_of_lt (s := s) (sp := .boot) hlt
    exact ⟨v, hget, (execBootRd_eq hb hoff a).trans hread⟩
  case second =>
    have hlt := Block.bootHighOffset_lt hw (DecodeCtx.overlay2_iff.2 ⟨hoff, hcgb, hlo, hhi⟩)
    rw [bootHighOffset_eq (by omega)] at hlt
    obtain ⟨v, hget, hread⟩ := State.deliverFrom_of_lt (s := s) (sp := .boot) hlt
    have hrow : s.readBootHigh a = .next { s with result := .byte v } :=
      (State.readBootHigh_eq hb hoff hcgb (by omega)).trans hread
    exact ⟨v, hget, hrow, hrow, hrow⟩

end Machine
end Sys2Proof
end

section
/-! SUPPORT. The ROM variant (41_rom_plain.md): what its ROM window (R141, R142) and its RAM window (R143, R144) answer.
The rules of a read and a write of a RAM window that shows RAM come first; they hold for every variant (R71). -/

namespace Sys2Proof
namespace Machine

/-! ### The RAM window (R71) -/

/-- Where the window shows RAM, a read delivers the cell's byte. -/
theorem State.readWindow_of_shown {s : State} {b : Block} {shown : Bool} {i : Nat} (hs : shown = true)
    (h : i < b.ram.size) :
    ∃ v, b.ram.get i = some v ∧ s.readWindow b shown i = .next { s with result := .byte v } := by
  rw [hs, State.readWindow_true]
  exact State.deliverFrom_of_lt h

/-- Where the window shows RAM, a write stores to the cell and changes nothing else. -/
theorem State.writeWindow_of_shown {s : State} {b : Block} {shown : Bool} {i : Nat} {v : Byte} (hs : shown = true)
    (hw : b.wf = true) (h : i < b.ram.size) :
    ∃ ram, b.ram.Updated i v ram ∧
      s.writeWindow b shown i v = .next { s with block := some { b with ram := ram }, result := .done } := by
  rw [hs, State.writeWindow_true]
  obtain ⟨ram, hupd, -, hwrite⟩ := State.writeRam_of_lt (s := s) (v := v) (Block.ram_wf hw) h
  exact ⟨ram, hupd, hwrite⟩

/-! ### The four operations on a block of variant ROM -/

section
variable {s : State} {b : Block}

theorem execRomRd_eq (hb : s.block = some b) (hc : b.ctrl = .rom) (a : Addr) :
    execRomRd a s = s.readRom b (a.toNat % b.params.romSize) := State.onRom_some hb hc _

theorem execRomWr_eq (hb : s.block = some b) (hc : b.ctrl = .rom) (a : Addr) (d : Byte) :
    execRomWr a d s = .next { s with result := .done } := State.onRom_some hb hc _

theorem execRomRamRd_eq (hb : s.block = some b) (hc : b.ctrl = .rom) (a : Addr) :
    execRomRamRd a s = s.readWindow b (b.params.ramBanks != 0) (ramSlice a) := State.onRom_some hb hc _

theorem execRomRamWr_eq (hb : s.block = some b) (hc : b.ctrl = .rom) (a : Addr) (d : Byte) :
    execRomRamWr a d s = s.writeWindow b (b.params.ramBanks != 0) (ramSlice a) d := State.onRom_some hb hc _

end

/-- Settles O15: the remainder lies in the ROM, and the slice of A in the RAM where there is one. -/
theorem romVariantWindows : Obligations.RomVariantWindows := by
  intro s b a d hb hw hc
  have hramRd : exec (.romRamRd a) s = _ := execRomRamRd_eq hb hc a
  have hramWr : exec (.romRamWr a d) s = _ := execRomRamWr_eq hb hc a d
  rw [hramRd, hramWr]
  refine ⟨?romRead, execRomWr_eq hb hc a d, fun hnone => ?noRam, fun hsome => ?ram⟩
  case romRead =>
    obtain ⟨v, hget, hread⟩ := State.deliverFrom_of_lt (s := s) (sp := .rom) (Block.romMod_lt hw a.toNat)
    exact ⟨v, hget, (execRomRd_eq hb hc a).trans hread⟩
  case noRam =>
    have hhidden : (b.params.ramBanks != 0) = false := bne_eq_false_iff_eq.2 hnone
    rw [hhidden]
    exact ⟨State.readWindow_false s b _, State.writeWindow_false s b _ d⟩
  case ram =>
    have hshown : (b.params.ramBanks != 0) = true := bne_iff_ne.2 hsome
    have hlt := Block.ramSlice_lt hw hsome a
    exact ⟨State.readWindow_of_shown hshown hlt, State.writeWindow_of_shown hshown hw hlt⟩

end Machine
end Sys2Proof
end

section
/-! SUPPORT. The slices of D as remainders (30_encoding.md R92), and the RAM-enable write with the save it triggers
(47_battery.md R299, R300), which MBC1, MBC2 and MBC5 share (R151, R171, R231). -/

namespace Sys2Proof
namespace Machine

/-! ### Slices of D -/

/-- Where the low `n` bits are 0 the bank field becomes 1. -/
theorem zeroToOne_ofNat (n k : Nat) :
    zeroToOne (BitVec.ofNat n k) = if k % 2 ^ n = 0 then 1#n else BitVec.ofNat n k := by
  simp only [zeroToOne, ← BitVec.toNat_inj, BitVec.toNat_ofNat, Nat.zero_mod]

/-- The low `n` bits of D, as a bank register takes them. -/
theorem lowBits_eq_ofNat (n : Nat) (d : Byte) : d.extractLsb' 0 n = BitVec.ofNat n d.toNat := rfl

theorem enableKey_eq (d : Byte) : enableKey d = decide (d.toNat % 16 = 10) := by
  unfold enableKey low4
  rw [lowBits_eq_ofNat, Bool.beq_eq_decide_eq, decide_eq_decide, ← BitVec.toNat_inj, BitVec.toNat_ofNat]
  rfl

/-! ### The save (R299, R300) -/

/-- The battery after a save without a clock: a mirror takes `ram`, the no-op battery does nothing (R290, R299). -/
def Battery.saveRam (t : Battery) (ram : Buf) : Battery :=
  match t with
  | .null => .null
  | .file m => .file { m with bRam := ram, dirty := true }

/-- Only an MBC3 supplies a clock block (R291). -/
theorem FileBattery.save_of_ne_mbc3 {b : Block} (hv : b.ctrl.variant ≠ .mbc3) (m : FileBattery) (n : Nat) :
    m.save b n = { m with bRam := b.ram, dirty := true } := by
  unfold FileBattery.save
  split
  next hc => rw [hc] at hv; exact absurd rfl hv
  next => rfl

theorem Block.saveTrigger_of_ne_mbc3 {b : Block} (hv : b.ctrl.variant ≠ .mbc3) (n : Nat) :
    b.saveTrigger n = { b with bat := b.bat.saveRam b.ram } := by
  obtain ⟨p, off, c, ram, bat⟩ := b
  cases bat with
  | null => rfl
  | file m => simp only [Block.saveTrigger, Battery.saveRam, FileBattery.save_of_ne_mbc3 hv]

theorem Block.afterEnableWrite_of_ne_mbc3 {c : Ctrl} (hv : c.variant ≠ .mbc3) (b : Block) (e : Bool) (n : Nat) :
    Block.afterEnableWrite { b with ctrl := c } e n =
      { b with ctrl := c, bat := if e then b.bat else b.bat.saveRam b.ram } := by
  cases e with
  | true => rfl
  | false => exact Block.saveTrigger_of_ne_mbc3 hv n

/-! ### The three writes -/

/-- What a RAM-enable write without a clock answers, once its controller `c` holds the new flag. -/
theorem State.commit_afterEnableWrite {c : Ctrl} (hv : c.variant ≠ .mbc3) (s : State) (b : Block) (d : Byte) :
    s.commit (Block.afterEnableWrite { b with ctrl := c } (enableKey d) s.now) = .next { s with
      block := some { b with ctrl := c, bat := if d.toNat % 16 = 10 then b.bat else b.bat.saveRam b.ram }
      result := .done } := by
  rw [Block.afterEnableWrite_of_ne_mbc3 hv, enableKey_eq]
  simp only [decide_eq_true_eq, State.commit]

section
variable {s : State} {b : Block}

theorem execM1RamgWr_eq {r : Mbc1} (hb : s.block = some b) (hc : b.ctrl = .mbc1 r) (a : Addr) (d : Byte) :
    execM1RamgWr a d s = .next { s with
      block := some { b with
        ctrl := .mbc1 { r with ramEnable := decide (d.toNat % 16 = 10) }
        bat := if d.toNat % 16 = 10 then b.bat else b.bat.saveRam b.ram }
      result := .done } := by
  rw [execM1RamgWr, State.onMbc1_some hb hc, State.commit_afterEnableWrite (by simp), enableKey_eq]

theorem execM2RamgWr_eq {r : Mbc2} (hb : s.block = some b) (hc : b.ctrl = .mbc2 r) (a : Addr) (d : Byte) :
    execM2RamgWr a d s = .next { s with
      block := some { b with
        ctrl := .mbc2 { r with ramEnable := decide (d.toNat % 16 = 10) }
        bat := if d.toNat % 16 = 10 then b.bat else b.bat.saveRam b.ram }
      result := .done } := by
  rw [execM2RamgWr, State.onMbc2_some hb hc, State.commit_afterEnableWrite (by simp), enableKey_eq]

theorem execM5RamgWr_eq {r : Mbc5} (hb : s.block = some b) (hc : b.ctrl = .mbc5 r) (a : Addr) (d : Byte) :
    execM5RamgWr a d s = .next { s with
      block := some { b with
        ctrl := .mbc5 { r with ramEnable := decide (d.toNat % 16 = 10) }
        bat := if d.toNat % 16 = 10 then b.bat else b.bat.saveRam b.ram }
      result := .done } := by
  rw [execM5RamgWr, State.onMbc5_some hb hc, State.commit_afterEnableWrite (by simp), enableKey_eq]

end

/-- Settles O30: the battery the statement writes out is `Battery.saveRam`'s, and the three variants share one commit. -/
theorem ramEnableWrites : Obligations.RamEnableWrites := by
  intro s b a d saved hb hsaved
  have hbat : saved = if d.toNat % 16 = 10 then b.bat else b.bat.saveRam b.ram := hsaved
  subst hbat
  exact ⟨fun r hc => execM1RamgWr_eq hb hc a d, fun r hc => execM2RamgWr_eq hb hc a d,
    fun r hc => execM5RamgWr_eq hb hc a d⟩

end Machine
end Sys2Proof
end

section
/-! SUPPORT. The MBC1 variant (42_mbc1.md): its bank registers (R152 to R154), the two ROM windows (R156, R157) and the RAM
window (R158, R159) under the effective banks of R155. -/

namespace Sys2Proof
namespace Machine

/-! ### Windows through a bank number (R70, R71), for every variant -/

/-- A read of ROM through any bank number delivers the byte at the translated offset. -/
theorem State.readRom_romOffset {s : State} {b : Block} (hw : b.wf = true) (k : Nat) (a : Addr) :
    ∃ v, b.params.rom.get (k % b.params.romBanks * 0x4000 + a.toNat % 0x4000) = some v ∧
      s.readRom b (b.params.romOffset k a) = .next { s with result := .byte v } := by
  rw [← romSlice_eq]
  exact State.deliverFrom_of_lt (Block.romOffset_lt hw k a)

/-! ### Effective banks (R155) -/

theorem Mbc1.romBankLow_eq (r : Mbc1) : r.romBankLow = if r.mode then r.bank2.toNat * 32 else 0 := by
  rw [Mbc1.romBankLow, Nat.shiftLeft_eq]

/-- `bank1` has five bits, so the disjunction is a sum. -/
theorem Mbc1.romBankHigh_eq (r : Mbc1) : r.romBankHigh = r.bank2.toNat * 32 + r.bank1.toNat := by
  rw [Mbc1.romBankHigh, ← Nat.shiftLeft_add_eq_or_of_lt r.bank1.isLt, Nat.shiftLeft_eq]

/-! ### The operations on a block of variant MBC1 -/

section
variable {s : State} {b : Block} {r : Mbc1}

theorem execM1Bank1Wr_eq (hb : s.block = some b) (hc : b.ctrl = .mbc1 r) (a : Addr) (d : Byte) :
    execM1Bank1Wr a d s = s.commit { b with ctrl := .mbc1 { r with bank1 := zeroToOne (d.extractLsb' 0 5) } } :=
  State.onMbc1_some hb hc _

theorem execM1Bank2Wr_eq (hb : s.block = some b) (hc : b.ctrl = .mbc1 r) (a : Addr) (d : Byte) :
    execM1Bank2Wr a d s = s.commit { b with ctrl := .mbc1 { r with bank2 := d.extractLsb' 0 2 } } :=
  State.onMbc1_some hb hc _

theorem execM1ModeWr_eq (hb : s.block = some b) (hc : b.ctrl = .mbc1 r) (a : Addr) (d : Byte) :
    execM1ModeWr a d s = s.commit { b with ctrl := .mbc1 { r with mode := d.getLsbD 0 } } :=
  State.onMbc1_some hb hc _

theorem execM1Rom0Rd_eq (hb : s.block = some b) (hc : b.ctrl = .mbc1 r) (a : Addr) :
    execM1Rom0Rd a s = s.readRom b (b.params.romOffset r.romBankLow a) := State.onMbc1_some hb hc _

theorem execM1RomxRd_eq (hb : s.block = some b) (hc : b.ctrl = .mbc1 r) (a : Addr) :
    execM1RomxRd a s = s.readRom b (b.params.romOffset r.romBankHigh a) := State.onMbc1_some hb hc _

theorem execM1RamRd_eq (hb : s.block = some b) (hc : b.ctrl = .mbc1 r) (a : Addr) :
    execM1RamRd a s = s.readWindow b (b.params.ramShown r.ramEnable) (b.params.ramOffset r.ramBankSel a) :=
  State.onMbc1_some hb hc _

theorem execM1RamWr_eq (hb : s.block = some b) (hc : b.ctrl = .mbc1 r) (a : Addr) (d : Byte) :
    execM1RamWr a d s = s.writeWindow b (b.params.ramShown r.ramEnable) (b.params.ramOffset r.ramBankSel a) d :=
  State.onMbc1_some hb hc _

end

/-- Settles O16: each register takes its slice of D, written as a remainder. -/
theorem mbc1BankRegisterWrites : Obligations.Mbc1BankRegisterWrites := by
  intro s b r a d hb hc
  have hbank1 : zeroToOne (d.extractLsb' 0 5) = if d.toNat % 32 = 0 then 1#5 else BitVec.ofNat 5 d.toNat :=
    zeroToOne_ofNat 5 d.toNat
  have hbank2 : d.extractLsb' 0 2 = BitVec.ofNat 2 d.toNat := lowBits_eq_ofNat 2 d
  have hmode : d.getLsbD 0 = decide (d.toNat % 2 = 1) := Nat.testBit_zero d.toNat
  rw [← hbank1, ← hbank2, ← hmode]
  exact ⟨execM1Bank1Wr_eq hb hc a d, execM1Bank2Wr_eq hb hc a d, execM1ModeWr_eq hb hc a d⟩

/-- Settles O17: both windows read ROM through a bank number, which R155 gives. -/
theorem mbc1RomReads : Obligations.Mbc1RomReads := by
  intro s b r a hb hw hc
  rw [← Mbc1.romBankLow_eq, ← Mbc1.romBankHigh_eq]
  have hlow : exec (.m1Rom0Rd a) s = _ := execM1Rom0Rd_eq hb hc a
  have hhigh : exec (.m1RomxRd a) s = _ := execM1RomxRd_eq hb hc a
  rw [hlow, hhigh]
  exact ⟨State.readRom_romOffset hw r.romBankLow a, State.readRom_romOffset hw r.romBankHigh a⟩

/-- Settles O18: the window is hidden or shown by R71, and a cell shown lies in RAM. -/
theorem mbc1RamWindow : Obligations.Mbc1RamWindow := by
  intro s b r a d hb hw hc
  have hread : exec (.m1RamRd a) s = _ := execM1RamRd_eq hb hc a
  have hwrite : exec (.m1RamWr a d) s = _ := execM1RamWr_eq hb hc a d
  rw [hread, hwrite]
  refine ⟨fun hhidden => ?hidden, fun henable hbanks => ?shown⟩
  case hidden =>
    rw [Params.ramShown_eq_false.2 hhidden]
    exact ⟨State.readWindow_false s b _, State.writeWindow_false s b _ d⟩
  case shown =>
    have hshown : b.params.ramShown r.ramEnable = true := Params.ramShown_eq_true.2 ⟨henable, hbanks⟩
    have hlt : b.params.ramOffset r.ramBankSel a < b.ram.size := Block.ramOffset_lt hw hbanks _ a
    exact ⟨State.readWindow_of_shown hshown hlt, State.writeWindow_of_shown hshown hw hlt⟩

end Machine
end Sys2Proof
end

section
/-! SUPPORT. The two ROM windows of MBC2, MBC3 and MBC5 (R174, R175, R195, R196, R236, R237), which the three variants
read through one register: bank 0 below, the bank of `romBank` above. -/

namespace Sys2Proof
namespace Machine

/-- A read of ROM at the offset within a window delivers the byte of bank 0. -/
theorem State.readRom_romSlice {s : State} {b : Block} (hw : b.wf = true) (a : Addr) :
    ∃ v, b.params.rom.get (a.toNat % 0x4000) = some v ∧
      s.readRom b (romSlice a) = .next { s with result := .byte v } := by
  rw [← romSlice_eq]
  exact State.deliverFrom_of_lt (Block.romSlice_lt hw a)

/-! ### The reads on a block of their variant -/

section
variable {s : State} {b : Block}

theorem execM2Rom0Rd_eq {r : Mbc2} (hb : s.block = some b) (hc : b.ctrl = .mbc2 r) (a : Addr) :
    execM2Rom0Rd a s = s.readRom b (romSlice a) := State.onMbc2_some hb hc _

theorem execM2RomxRd_eq {r : Mbc2} (hb : s.block = some b) (hc : b.ctrl = .mbc2 r) (a : Addr) :
    execM2RomxRd a s = s.readRom b (b.params.romOffset r.romBank.toNat a) := State.onMbc2_some hb hc _

theorem execM3Rom0Rd_eq {r : Mbc3} {k : Rtc} (hb : s.block = some b) (hc : b.ctrl = .mbc3 r k) (a : Addr) :
    execM3Rom0Rd a s = s.readRom b (romSlice a) := State.onMbc3_some hb hc _

theorem execM3RomxRd_eq {r : Mbc3} {k : Rtc} (hb : s.block = some b) (hc : b.ctrl = .mbc3 r k) (a : Addr) :
    execM3RomxRd a s = s.readRom b (b.params.romOffset r.romBank.toNat a) := State.onMbc3_some hb hc _

theorem execM5Rom0Rd_eq {r : Mbc5} (hb : s.block = some b) (hc : b.ctrl = .mbc5 r) (a : Addr) :
    execM5Rom0Rd a s = s.readRom b (romSlice a) := State.onMbc5_some hb hc _

theorem execM5RomxRd_eq {r : Mbc5} (hb : s.block = some b) (hc : b.ctrl = .mbc5 r) (a : Addr) :
    execM5RomxRd a s = s.readRom b (b.params.romOffset r.romBank.toNat a) := State.onMbc5_some hb hc _

/-- Two operations that read bank 0 and bank `k` of a well-formed block's ROM complete with the byte there. -/
theorem romWindows_of_readRom {low high : Instr} {a : Addr} {k : Nat} (hw : b.wf = true)
    (hlow : exec low s = s.readRom b (romSlice a)) (hhigh : exec high s = s.readRom b (b.params.romOffset k a)) :
    (∃ v, b.params.rom.get (a.toNat % 0x4000) = some v ∧ exec low s = .next { s with result := .byte v }) ∧
    ∃ v, b.params.rom.get (k % b.params.romBanks * 0x4000 + a.toNat % 0x4000) = some v ∧
      exec high s = .next { s with result := .byte v } := by
  rw [hlow, hhigh]
  exact ⟨State.readRom_romSlice hw a, State.readRom_romOffset hw k a⟩

end

/-- Settles O14: on each of the three variants the two reads are those of bank 0 and of bank `romBank`. -/
theorem romReadsThroughRomBank : Obligations.RomReadsThroughRomBank := fun _ _ a hb hw =>
  ⟨fun _ hc => romWindows_of_readRom hw (execM2Rom0Rd_eq hb hc a) (execM2RomxRd_eq hb hc a),
    fun _ _ hc => romWindows_of_readRom hw (execM3Rom0Rd_eq hb hc a) (execM3RomxRd_eq hb hc a),
    fun _ hc => romWindows_of_readRom hw (execM5Rom0Rd_eq hb hc a) (execM5RomxRd_eq hb hc a)⟩

end Machine
end Sys2Proof
end

section
/-! SUPPORT. The MBC2 variant (43_mbc2.md): its bank register and the write without effect (R172, R173), and the RAM
window of 512 nibbles (R176, R177). -/

namespace Sys2Proof
namespace Machine

/-! ### Nibbles -/

/-- The masks pick the bits of `x` from 4 upward and those of `y` below 4. -/
theorem highNibble_append_lowNibble (x y : Byte) :
    x.extractLsb' 4 4 ++ y.extractLsb' 0 4 = x &&& 0xF0#8 ||| y &&& 0x0F#8 := by
  have hmasks : ∀ i < 8, (0xF0#8).getLsbD i = decide (4 ≤ i) ∧ (0x0F#8).getLsbD i = decide (i < 4) := by decide
  refine BitVec.eq_of_getLsbD_eq fun i hi => ?_
  obtain ⟨hhigh, hlow⟩ := hmasks i hi
  rw [BitVec.getLsbD_or, BitVec.getLsbD_and, BitVec.getLsbD_and, hhigh, hlow, BitVec.getLsbD_append,
    BitVec.getLsbD_extractLsb', BitVec.getLsbD_extractLsb']
  rcases Nat.lt_or_ge i 4 with h | h
  · simp [h]
  · have hsub : i - 4 < 4 := by omega
    simp [h, hsub, Nat.not_lt.2 h]

theorem mbc2Delivered_eq (openBus cell : Byte) : mbc2Delivered openBus cell = openBus &&& 0xF0#8 ||| cell &&& 0x0F#8 :=
  highNibble_append_lowNibble openBus cell

theorem mbc2Stored_eq (cell d : Byte) : mbc2Stored cell d = cell &&& 0xF0#8 ||| d &&& 0x0F#8 :=
  highNibble_append_lowNibble cell d

/-! ### The operations on a block of variant MBC2 -/

section
variable {s : State} {b : Block} {r : Mbc2}

theorem execM2RombWr_eq (hb : s.block = some b) (hc : b.ctrl = .mbc2 r) (a : Addr) (d : Byte) :
    execM2RombWr a d s = s.commit { b with ctrl := .mbc2 { r with romBank := zeroToOne (low4 d) } } :=
  State.onMbc2_some hb hc _

theorem execM2NopWr_eq (hb : s.block = some b) (hc : b.ctrl = .mbc2 r) (a : Addr) (d : Byte) :
    execM2NopWr a d s = .next { s with result := .done } := State.onMbc2_some hb hc _

theorem execM2RamRd_of_disabled (hb : s.block = some b) (hc : b.ctrl = .mbc2 r) (he : r.ramEnable = false) (a : Addr) :
    execM2RamRd a s = .next { s with result := .byte b.params.openBus } := by
  rw [execM2RamRd, State.onMbc2_some hb hc, he]
  rfl

theorem execM2RamRd_of_enabled {v : Byte} {a : Addr} (hb : s.block = some b) (hc : b.ctrl = .mbc2 r)
    (he : r.ramEnable = true) (hget : b.ram.get (mbc2Slice a) = some v) :
    execM2RamRd a s = .next { s with result := .byte (mbc2Delivered b.params.openBus v) } := by
  rw [execM2RamRd, State.onMbc2_some hb hc, he, hget]
  rfl

theorem execM2RamWr_eq (hb : s.block = some b) (hc : b.ctrl = .mbc2 r) (a : Addr) (d : Byte) :
    execM2RamWr a d s = s.writeWindow b r.ramEnable (mbc2Slice a) (mbc2Stored (b.ram.at (mbc2Slice a)) d) :=
  State.onMbc2_some hb hc _

end

/-- Settles O19: the bank register takes its slice of D, written as a remainder. -/
theorem mbc2BankRegisterWrites : Obligations.Mbc2BankRegisterWrites := by
  intro s b r a d hb hc
  have hbank : zeroToOne (low4 d) = if d.toNat % 16 = 0 then 1#4 else BitVec.ofNat 4 d.toNat :=
    zeroToOne_ofNat 4 d.toNat
  rw [← hbank]
  exact ⟨execM2RombWr_eq hb hc a d, execM2NopWr_eq hb hc a d⟩

/-- Settles O20: the cell A[8:0] lies in the one bank of RAM, and both operations join two nibbles. -/
theorem mbc2RamWindow : Obligations.Mbc2RamWindow := by
  intro s b r a d hb hw hc
  have hwrite : exec (.m2RamWr a d) s = _ := execM2RamWr_eq hb hc a d
  rw [hwrite]
  refine ⟨fun hdisabled => ?disabled, fun henabled => ?enabled⟩
  case disabled =>
    rw [hdisabled]
    exact ⟨execM2RamRd_of_disabled hb hc hdisabled a, State.writeWindow_false s b _ _⟩
  case enabled =>
    have hvariant : b.params.variant = .mbc2 := by rw [← Block.ctrl_variant hw, hc, Ctrl.variant_mbc2]
    have hlt : mbc2Slice a < b.ram.size := Block.mbc2Slice_lt hw hvariant a
    have hget := Buf.get_of_lt hlt
    refine ⟨b.ram.at (mbc2Slice a), hget, mbc2Slice_eq a, ?_⟩
    rw [← mbc2Delivered_eq, ← mbc2Stored_eq]
    exact ⟨execM2RamRd_of_enabled hb hc henabled hget, State.writeWindow_of_shown henabled hw hlt⟩

end Machine
end Sys2Proof
end

section
/-! SUPPORT. The RAM window of MBC3 (44_mbc3.md R197): the lines of its table, and the rows that a transaction in the window
decodes to. -/

namespace Sys2Proof

/-! ### The lines of the table (R197) -/

theorem mbc3Target_eq_none {e : Bool} {sel : BitVec 4} {n : Nat}
    (h : e = false ∨ (sel.toNat ≤ 3 ∧ n = 0) ∨ (4 ≤ sel.toNat ∧ sel.toNat ≤ 7) ∨ 13 ≤ sel.toNat) :
    mbc3Target e sel n = .none := by
  cases e with
  | false => rfl
  | true =>
    obtain ⟨hs, rfl⟩ | hs := h.resolve_left Bool.noConfusion
    · rw [mbc3Target, if_neg (by decide), if_pos hs, if_pos rfl]
    · rw [mbc3Target, if_neg (by decide), if_neg (by omega), if_neg (by bv_omega), if_neg (by bv_omega),
        if_neg (by bv_omega), if_neg (by bv_omega), if_neg (by bv_omega)]

section
variable {e : Bool} {sel : BitVec 4} (he : e = true)
include he

theorem mbc3Target_eq_ram {n : Nat} (hs : sel.toNat ≤ 3) (hn : n ≠ 0) : mbc3Target e sel n = .ram := by
  rw [mbc3Target, he, if_neg (by decide), if_pos hs, if_neg hn]

theorem mbc3Target_eq_seconds (hs : sel = 0x8#4) (n : Nat) : mbc3Target e sel n = .seconds := by
  rw [he, hs]
  rfl

theorem mbc3Target_eq_minutes (hs : sel = 0x9#4) (n : Nat) : mbc3Target e sel n = .minutes := by
  rw [he, hs]
  rfl

theorem mbc3Target_eq_hours (hs : sel = 0xA#4) (n : Nat) : mbc3Target e sel n = .hours := by
  rw [he, hs]
  rfl

theorem mbc3Target_eq_dayLow (hs : sel = 0xB#4) (n : Nat) : mbc3Target e sel n = .dayLow := by
  rw [he, hs]
  rfl

theorem mbc3Target_eq_dayHigh (hs : sel = 0xC#4) (n : Nat) : mbc3Target e sel n = .dayHigh := by
  rw [he, hs]
  rfl

end

/-! ### The rows of the window (R98) -/

/-- In the window a transaction decodes to the row of what the window reaches. -/
theorem decode_mbc3Window {c : DecodeCtx} {a : Addr} {t : Mbc3Target} (hv : c.variant = .mbc3)
    (hin : a.within 0xA000 0xBFFF = true) (d : Byte) (ht : c.target = t) :
    decode (some c) (.t (rdWord a)) = .instr (decodeMbc3WindowRd t a) ∧
      decode (some c) (.t (wrWord a d)) = .instr (decodeMbc3WindowWr t a d) := by
  subst ht
  have hread : decodeMbc3WindowRd c.target a ∈ c.readRows a := by simp [DecodeCtx.readRows, hv]
  have hwrite : decodeMbc3WindowWr c.target a d ∈ c.writeRows a d := by simp [DecodeCtx.writeRows, hv]
  exact ⟨decode_rdWord_of_mem_readRows hin (by decide) (c.overlaid_ramWindow hin) hread (by simp [hin]),
    decode_wrWord_of_mem_writeRows hin (by decide) hwrite (by simp [hin])⟩

/-- Settles O24, by the lines of R197's table. -/
theorem mbc3WindowRowsDecode : Obligations.Mbc3WindowRowsDecode := by
  intro c a d hv hlo hhi
  have row {t : Mbc3Target} (ht : mbc3Target c.ramEnable c.sel c.ramBanks = t) :=
    decode_mbc3Window hv (Addr.within_iff.2 ⟨hlo, hhi⟩) d ht
  refine ⟨fun hnone => row (mbc3Target_eq_none hnone), fun he => ⟨?ram, ?seconds, ?minutes, ?hours, ?dayLow, ?dayHigh⟩⟩
  case ram => exact fun hs hn => row (mbc3Target_eq_ram he hs hn.ne')
  case seconds => exact fun hs => row (mbc3Target_eq_seconds he hs _)
  case minutes => exact fun hs => row (mbc3Target_eq_minutes he hs _)
  case hours => exact fun hs => row (mbc3Target_eq_hours he hs _)
  case dayLow => exact fun hs => row (mbc3Target_eq_dayLow he hs _)
  case dayHigh => exact fun hs => row (mbc3Target_eq_dayHigh he hs _)

end Sys2Proof
end

section
/-! SUPPORT. The MBC3 variant (44_mbc3.md): its bank, select and latch registers (R192 to R194), the RAM-enable write with
the clock in its save (R191), and what the window of R197 answers (R198 to R205). -/

namespace Sys2Proof
namespace Machine

/-! ### The latch register (R194, R263) -/

theorem Mbc3.completesLatch_iff {r : Mbc3} {d : Byte} :
    r.completesLatch d = true ↔ r.latchReg = 0x00#8 ∧ d = 0x01#8 := by
  simp [Mbc3.completesLatch]

theorem Rtc.latchSequence_eq (pol : LatchPolicy) (n : Nat) (k : Rtc) :
    k.latchSequence pol n = if pol = .toggle ∧ k.latchStart ≠ 0 then k.unlatch else k.latch n := by
  cases pol with
  | toggle => simp [Rtc.latchSequence, Rtc.latched]
  | relatch => rfl

/-! ### The save with a clock (R291, R299, R300) -/

/-- The battery after a save with a clock: a mirror takes `ram` and the clock block, the no-op battery does nothing. -/
def Battery.saveClock (t : Battery) (ram clock : Buf) : Battery :=
  match t with
  | .null => .null
  | .file _ => .file { bRam := ram, bClock := clock, clockPresent := true, dirty := true }

/-- The save of a block that was given an MBC3's registers and clock. -/
theorem Block.saveTrigger_mbc3 (b : Block) (r : Mbc3) (k : Rtc) (n : Nat) :
    Block.saveTrigger { b with ctrl := .mbc3 r k } n = { b with
      ctrl := .mbc3 r k, bat := b.bat.saveClock b.ram (clockBlock (k.serialize b.params.tickHz n)) } := by
  obtain ⟨p, off, c, ram, bat⟩ := b
  cases bat with
  | null => rfl
  | file m => rfl

theorem Block.afterEnableWrite_mbc3 (b : Block) (r : Mbc3) (k : Rtc) (e : Bool) (n : Nat) :
    Block.afterEnableWrite { b with ctrl := .mbc3 r k } e n = { b with
      ctrl := .mbc3 r k
      bat := if e then b.bat else b.bat.saveClock b.ram (clockBlock (k.serialize b.params.tickHz n)) } := by
  cases e with
  | true => rfl
  | false => exact Block.saveTrigger_mbc3 b r k n

/-! ### The register writes on a block of variant MBC3 -/

section
variable {s : State} {b : Block} {r : Mbc3} {k : Rtc}

theorem execM3RamgWr_eq (hb : s.block = some b) (hc : b.ctrl = .mbc3 r k) (a : Addr) (d : Byte) :
    execM3RamgWr a d s = s.commit { b with
      ctrl := .mbc3 { r with ramEnable := decide (d.toNat % 16 = 10) } k
      bat := if d.toNat % 16 = 10 then b.bat
        else b.bat.saveClock b.ram (clockBlock (k.serialize b.params.tickHz s.now)) } := by
  rw [execM3RamgWr, State.onMbc3_some hb hc, Block.afterEnableWrite_mbc3, enableKey_eq]
  simp only [decide_eq_true_eq]

theorem execM3RombWr_eq (hb : s.block = some b) (hc : b.ctrl = .mbc3 r k) (a : Addr) (d : Byte) :
    execM3RombWr a d s = s.commit { b with ctrl := .mbc3 { r with romBank := zeroToOne (d.extractLsb' 0 7) } k } :=
  State.onMbc3_some hb hc _

theorem execM3SelWr_eq (hb : s.block = some b) (hc : b.ctrl = .mbc3 r k) (a : Addr) (d : Byte) :
    execM3SelWr a d s = s.commit { b with ctrl := .mbc3 { r with sel := BitVec.ofNat 4 d.toNat } k } :=
  State.onMbc3_some hb hc _

theorem execM3LatchWr_eq (hb : s.block = some b) (hc : b.ctrl = .mbc3 r k) (a : Addr) (d : Byte) :
    execM3LatchWr a d s = s.commit { b with
      ctrl := .mbc3 { r with latchReg := d }
        (if r.latchReg = 0x00#8 ∧ d = 0x01#8 then k.latchSequence b.params.latchPolicy s.now else k) } := by
  rw [execM3LatchWr, State.onMbc3_some hb hc]
  simp only [Mbc3.completesLatch_iff]

end

/-- Settles O21: each register takes its slice of D, written as a remainder. -/
theorem mbc3BankRegisterWrites : Obligations.Mbc3BankRegisterWrites := by
  intro s b r k a d hb hc
  have hbank : zeroToOne (d.extractLsb' 0 7) = if d.toNat % 128 = 0 then 1#7 else BitVec.ofNat 7 d.toNat :=
    zeroToOne_ofNat 7 d.toNat
  rw [← hbank]
  exact ⟨execM3RombWr_eq hb hc a d, execM3SelWr_eq hb hc a d⟩

/-- Settles O22: the write runs the latch sequence where it completes one, and R263's two policies are one formula. -/
theorem latchRegisterWrite : Obligations.LatchRegisterWrite := by
  intro s b r k a d hb hc
  have hwrite : exec (.m3LatchWr a d) s = _ := execM3LatchWr_eq hb hc a d
  rw [hwrite, Rtc.latchSequence_eq]
  rfl

/-- Settles O31: the battery the statement writes out is `Battery.saveClock`'s. -/
theorem mbc3RamEnableWriteSavesClock : Obligations.Mbc3RamEnableWriteSavesClock :=
  fun _ _ _ _ a d hb hc => execM3RamgWr_eq hb hc a d

/-! ### The window -/

/-- Settles O23: the window reaches RAM, where a cell shown lies in it, or nothing. -/
theorem mbc3RamWindow : Obligations.Mbc3RamWindow := by
  intro s b r k a d hb hw hc
  refine ⟨fun he hs hbanks => ?ram, fun hnone => ?none⟩
  case ram =>
    have ht := mbc3Target_eq_ram he hs hbanks
    have hread : exec (.m3RamRd a) s = s.readRam b (b.params.ramOffset r.sel.toNat a) :=
      State.onWindow_some hb hc ht _
    have hwrite : exec (.m3RamWr a d) s = s.writeRam b (b.params.ramOffset r.sel.toNat a) d :=
      State.onWindow_some hb hc ht _
    have hlt := Block.ramOffset_lt hw hbanks r.sel.toNat a
    rw [hread, hwrite, ← State.readWindow_true, ← State.writeWindow_true]
    exact ⟨State.readWindow_of_shown rfl hlt, State.writeWindow_of_shown rfl hw hlt⟩
  case none =>
    have ht := mbc3Target_eq_none hnone
    exact ⟨State.onWindow_some hb hc ht _, State.onWindow_some hb hc ht _⟩

/-- Settles O25: each read answers where its `sel` makes the window reach its register. -/
theorem clockRegisterReads : Obligations.ClockRegisterReads := fun _ _ _ _ _ hb hc he =>
  ⟨fun hs => State.onWindow_some hb hc (mbc3Target_eq_seconds he hs _) _,
    fun hs => State.onWindow_some hb hc (mbc3Target_eq_minutes he hs _) _,
    fun hs => State.onWindow_some hb hc (mbc3Target_eq_hours he hs _) _,
    fun hs => State.onWindow_some hb hc (mbc3Target_eq_dayLow he hs _) _,
    fun hs => State.onWindow_some hb hc (mbc3Target_eq_dayHigh he hs _) _⟩

end Machine
end Sys2Proof
end

section
/-! SUPPORT. The writes of the clock registers (44_mbc3.md R207 to R211), with the setters of R267 to R270. -/

namespace Sys2Proof
namespace Machine

/-! ### The day counter's two parts -/

/-- Bit 8 of a nine-bit counter kept, its low byte replaced. -/
theorem dayBit8_append_eq (days : BitVec 9) (d : Byte) :
    days.extractLsb' 8 1 ++ d = BitVec.ofNat 9 (days.toNat / 256 * 256 + d.toNat) := by
  apply BitVec.eq_of_toNat_eq
  rw [Laws.TableRow.toNat_append_add, BitVec.extractLsb'_toNat, BitVec.toNat_ofNat, Nat.shiftRight_eq_div_pow]
  omega

/-- Bit 8 of a nine-bit counter replaced, its low byte kept. -/
theorem append_dayLow_eq (days : BitVec 9) (d : Byte) :
    d.extractLsb' 0 1 ++ days.extractLsb' 0 8 = BitVec.ofNat 9 (days.toNat % 256 + 256 * (d.toNat % 2)) := by
  apply BitVec.eq_of_toNat_eq
  rw [Laws.TableRow.toNat_append_add, BitVec.extractLsb'_toNat, BitVec.extractLsb'_toNat, BitVec.toNat_ofNat,
    Nat.shiftRight_zero, Nat.shiftRight_zero]
  omega

theorem Rtc.writeDayLow_eq (d : Byte) (k : Rtc) :
    k.writeDayLow d =
      if k.halt then { k with haltDays := BitVec.ofNat 9 (k.haltDays.toNat / 256 * 256 + d.toNat) } else k := by
  rw [Rtc.writeDayLow, dayBit8_append_eq, Rtc.setDayCounter]

theorem Rtc.writeDayBit8_eq (d : Byte) (k : Rtc) :
    k.writeDayBit8 d =
      if k.halt then { k with haltDays := BitVec.ofNat 9 (k.haltDays.toNat % 256 + 256 * (d.toNat % 2)) } else k := by
  rw [Rtc.writeDayBit8, append_dayLow_eq, Rtc.setDayCounter]

/-! ### The day-high write (R211) -/

/-- Bit 7 is the quotient by 128, which is 0 or 1. -/
theorem getLsbD_seven_iff {d : Byte} : d.getLsbD 7 = true ↔ d.toNat / 128 = 1 := by
  have hbit : d.getLsbD 7 = decide (d.toNat / 128 % 2 = 1) := Nat.testBit_eq_decide_div_mod_eq
  rw [hbit, decide_eq_true_iff]
  omega

theorem Rtc.writeDayHigh_eq (hz n : Nat) (d : Byte) (k : Rtc) :
    k.writeDayHigh hz n d =
      if d.toNat / 128 = 1 then (k.writeDayBit8 d).setHalt hz n (decide (d.toNat / 64 % 2 = 1))
      else ((k.writeDayBit8 d).setHalt hz n (decide (d.toNat / 64 % 2 = 1))).clearCounterOverflow hz n := by
  have hhalt : d.getLsbD 6 = decide (d.toNat / 64 % 2 = 1) := Nat.testBit_eq_decide_div_mod_eq
  simp only [Rtc.writeDayHigh, getLsbD_seven_iff, hhalt]

/-! ### The writes through the window -/

/-- Settles O26: the window reaches the register, and its setter keeps a running clock. -/
theorem clockRegisterWrites : Obligations.ClockRegisterWrites := by
  intro s b r k a d hb hc he
  rw [← Rtc.writeDayLow_eq]
  exact ⟨fun hs => State.onWindow_some hb hc (mbc3Target_eq_seconds he hs _) _,
    fun hs => State.onWindow_some hb hc (mbc3Target_eq_minutes he hs _) _,
    fun hs => State.onWindow_some hb hc (mbc3Target_eq_hours he hs _) _,
    fun hs => State.onWindow_some hb hc (mbc3Target_eq_dayLow he hs _) _⟩

/-- Settles O27: the statement's three clocks are the stages of `Rtc.writeDayHigh`. -/
theorem dayHighWrite : Obligations.DayHighWrite := by
  intro s b r k k1 k2 k3 a d hb hc he hs hbit8 hhalt hclear
  rw [← Rtc.writeDayBit8_eq] at hbit8
  subst hbit8 hhalt
  rw [← Rtc.writeDayHigh_eq] at hclear
  subst hclear
  exact State.onWindow_some hb hc (mbc3Target_eq_dayHigh he hs _) _

end Machine
end Sys2Proof
end

section
/-! SUPPORT. The MBC5 variant (45_mbc5.md): its bank registers (R232 to R235) and the RAM window (R238, R239). -/

namespace Sys2Proof
namespace Machine

/-- The other order of `append_dayLow_eq`'s sum: bit 8 of a nine-bit register replaced, its low byte kept. -/
theorem append_lowByte_eq (bank : BitVec 9) (d : Byte) :
    d.extractLsb' 0 1 ++ bank.extractLsb' 0 8 = BitVec.ofNat 9 (d.toNat % 2 * 256 + bank.toNat % 256) := by
  rw [append_dayLow_eq, Nat.add_comm (bank.toNat % 256), Nat.mul_comm 256]

/-! ### The operations on a block of variant MBC5 -/

section
variable {s : State} {b : Block} {r : Mbc5}

theorem execM5Romb0Wr_eq (hb : s.block = some b) (hc : b.ctrl = .mbc5 r) (a : Addr) (d : Byte) :
    execM5Romb0Wr a d s = s.commit { b with ctrl := .mbc5 { r with
      romBank := BitVec.ofNat 9 (r.romBank.toNat / 256 * 256 + d.toNat) } } := by
  rw [execM5Romb0Wr, State.onMbc5_some hb hc, dayBit8_append_eq]

theorem execM5Romb1Wr_eq (hb : s.block = some b) (hc : b.ctrl = .mbc5 r) (a : Addr) (d : Byte) :
    execM5Romb1Wr a d s = s.commit { b with ctrl := .mbc5 { r with
      romBank := BitVec.ofNat 9 (d.toNat % 2 * 256 + r.romBank.toNat % 256) } } := by
  rw [execM5Romb1Wr, State.onMbc5_some hb hc, append_lowByte_eq]

theorem execM5RambWr_eq (hb : s.block = some b) (hc : b.ctrl = .mbc5 r) (a : Addr) (d : Byte) :
    execM5RambWr a d s = s.commit { b with ctrl := .mbc5 { r with ramBank := BitVec.ofNat 4 d.toNat } } :=
  State.onMbc5_some hb hc _

theorem execM5NopWr_eq (hb : s.block = some b) (hc : b.ctrl = .mbc5 r) (a : Addr) (d : Byte) :
    execM5NopWr a d s = .next { s with result := .done } := State.onMbc5_some hb hc _

theorem execM5RamRd_eq (hb : s.block = some b) (hc : b.ctrl = .mbc5 r) (a : Addr) :
    execM5RamRd a s = s.readWindow b (b.params.ramShown r.ramEnable) (b.params.ramOffset r.ramBank.toNat a) :=
  State.onMbc5_some hb hc _

theorem execM5RamWr_eq (hb : s.block = some b) (hc : b.ctrl = .mbc5 r) (a : Addr) (d : Byte) :
    execM5RamWr a d s = s.writeWindow b (b.params.ramShown r.ramEnable) (b.params.ramOffset r.ramBank.toNat a) d :=
  State.onMbc5_some hb hc _

end

/-- Settles O28: the two halves of the ROM bank are sums over 256, with no zero test. -/
theorem mbc5BankRegisterWrites : Obligations.Mbc5BankRegisterWrites := fun _ _ _ a d hb hc =>
  ⟨execM5Romb0Wr_eq hb hc a d, execM5Romb1Wr_eq hb hc a d, execM5RambWr_eq hb hc a d, execM5NopWr_eq hb hc a d⟩

/-- Settles O29: the window is hidden or shown by R71, and the cell of `ramBank` lies in RAM. -/
theorem mbc5RamWindow : Obligations.Mbc5RamWindow := by
  intro s b r a d hb hw hc
  have hread : exec (.m5RamRd a) s = _ := execM5RamRd_eq hb hc a
  have hwrite : exec (.m5RamWr a d) s = _ := execM5RamWr_eq hb hc a d
  rw [hread, hwrite]
  refine ⟨fun hhidden => ?hidden, fun henable hbanks => ?shown⟩
  case hidden =>
    rw [Params.ramShown_eq_false.2 hhidden]
    exact ⟨State.readWindow_false s b _, State.writeWindow_false s b _ d⟩
  case shown =>
    have hshown := Params.ramShown_eq_true.2 ⟨henable, hbanks⟩
    have hlt := Block.ramOffset_lt hw hbanks r.ramBank.toNat a
    exact ⟨State.readWindow_of_shown hshown hlt, State.writeWindow_of_shown hshown hw hlt⟩

end Machine
end Sys2Proof
end

section
/-! SUPPORT. The registers of a clock time (46_rtc.md R252 to R259): their values, what they have in common with the time
modulo the period, and what clearing the overflow (R271) does to them. -/

namespace Sys2Proof
namespace Machine

/-! ### The registers of a clock time -/

/-- A value in range is held as it stands. -/
theorem toNat_ofInt_of_lt {n : Nat} {i : Int} (h0 : 0 ≤ i) (h : i < 2 ^ n) : ((BitVec.ofInt n i).toNat : Int) = i := by
  rw [BitVec.toNat_ofInt, Nat.cast_pow, Nat.cast_ofNat, Int.emod_eq_of_lt h0 h, Int.toNat_of_nonneg h0]

theorem secondsOf_toNat (t : Int) : ((secondsOf t).toNat : Int) = t % 60 :=
  toNat_ofInt_of_lt (by omega) (by omega)

theorem minutesOf_toNat (t : Int) : ((minutesOf t).toNat : Int) = t / 60 % 60 :=
  toNat_ofInt_of_lt (by omega) (by omega)

theorem hoursOf_toNat (t : Int) : ((hoursOf t).toNat : Int) = t / 3600 % 24 :=
  toNat_ofInt_of_lt (by omega) (by omega)

theorem daysOf_toNat (t : Int) : ((daysOf t).toNat : Int) = t % 44236800 / 86400 :=
  toNat_ofInt_of_lt (i := t % 44236800 / 86400) (by omega) (by omega)

theorem carryOf_eq (t : Int) : carryOf t = decide (44236800 ≤ t) := rfl

/-- The day-high image is the sum of its fields (R259). -/
theorem dayHighImage_toNat (carry halt day8 : Bool) :
    (dayHighImage carry halt day8).toNat = day8.toNat + 64 * halt.toNat + 128 * carry.toNat := by
  cases carry <;> cases halt <;> cases day8 <;> rfl

/-! ### The displayed registers -/

theorem Rtc.readTime_eq (hz n : Nat) (k : Rtc) :
    k.readTime hz n =
      max 0 ((if k.latchStart = 0 then (n : Int) else k.latchStart) - k.clockStart) / (hz : Int) + k.offsetSec := by
  by_cases hlatch : k.latchStart = 0 <;> simp [Rtc.readTime, Rtc.timeAt, Rtc.basis, Rtc.latched, hlatch]

theorem Rtc.getDL_toNat (hz n : Nat) (k : Rtc) : (k.getDL hz n).toNat = (k.getDayCounter hz n).toNat % 256 := by
  simp [Rtc.getDL]

theorem Rtc.getDH_toNat (hz n : Nat) (k : Rtc) :
    (k.getDH hz n).toNat =
      (k.getDayCounter hz n).toNat / 256 + 64 * k.halt.toNat + 128 * (k.isCounterOverflow hz n).toNat := by
  have hbit8 : ((k.getDayCounter hz n).getLsbD 8).toNat = (k.getDayCounter hz n).toNat / 256 % 2 :=
    Nat.toNat_testBit _ 8
  have hlt := (k.getDayCounter hz n).isLt
  rw [Rtc.getDH, dayHighImage_toNat, hbit8]
  omega

/-- Settles O33: each register has the value of its formula, taken at the clock time that reads see. -/
theorem clockRegisterValues : Obligations.ClockRegisterValues := by
  intro hz n k b t hb ht
  have htime : k.readTime hz n = t := by rw [Rtc.readTime_eq, ht, hb]
  have hcarry : k.isCounterOverflow hz n = decide (44236800 ≤ t) := by rw [Rtc.isCounterOverflow, htime, carryOf_eq]
  refine ⟨?_, ?_, ?_, ?_, hcarry, k.getDL_toNat hz n, k.getDH_toNat hz n⟩
  · rw [Rtc.getSeconds, htime, ← secondsOf_toNat]; split <;> rfl
  · rw [Rtc.getMinutes, htime, ← minutesOf_toNat]; split <;> rfl
  · rw [Rtc.getHours, htime, ← hoursOf_toNat]; split <;> rfl
  · rw [Rtc.getDayCounter, htime, ← daysOf_toNat]; split <;> rfl

/-! ### Clock times that differ by whole periods -/

section
variable {t u : Int} (h : t % 44236800 = u % 44236800)
include h

theorem secondsOf_congr : secondsOf t = secondsOf u := by
  rw [secondsOf, secondsOf, show t % 60 = u % 60 by omega]

theorem minutesOf_congr : minutesOf t = minutesOf u := by
  rw [minutesOf, minutesOf, show t / 60 % 60 = u / 60 % 60 by omega]

theorem hoursOf_congr : hoursOf t = hoursOf u := by
  rw [hoursOf, hoursOf, show t / 3600 % 24 = u / 3600 % 24 by omega]

theorem daysOf_congr : daysOf t = daysOf u := by
  rw [daysOf, daysOf, show t % (Config.period : Int) = u % (Config.period : Int) from h]

end

/-- The four displayed registers of two clocks are equal (carry and halt are not among them). -/
def Rtc.ShowsSame (hz n : Nat) (k' k : Rtc) : Prop :=
  k'.getSeconds hz n = k.getSeconds hz n ∧ k'.getMinutes hz n = k.getMinutes hz n ∧
    k'.getHours hz n = k.getHours hz n ∧ k'.getDayCounter hz n = k.getDayCounter hz n

/-- Running clocks whose times differ by whole periods show the same. -/
theorem Rtc.showsSame_of_running {hz n : Nat} {k' k : Rtc} (hrun' : k'.halt = false) (hrun : k.halt = false)
    (h : k'.readTime hz n % 44236800 = k.readTime hz n % 44236800) : Rtc.ShowsSame hz n k' k := by
  simp only [Rtc.ShowsSame, Rtc.getSeconds, Rtc.getMinutes, Rtc.getHours, Rtc.getDayCounter, hrun', hrun]
  exact ⟨secondsOf_congr h, minutesOf_congr h, hoursOf_congr h, daysOf_congr h⟩

/-- A halted clock shows its shadows. -/
theorem Rtc.showsSame_of_halted {hz n : Nat} {k' k : Rtc} (hhalt : k'.halt = true)
    (hseconds : k'.haltSeconds = k.getSeconds hz n) (hminutes : k'.haltMinutes = k.getMinutes hz n)
    (hhours : k'.haltHours = k.getHours hz n) (hdays : k'.haltDays = k.getDayCounter hz n) :
    Rtc.ShowsSame hz n k' k := by
  simp only [Rtc.ShowsSame, ← hseconds, ← hminutes, ← hhours, ← hdays]
  simp [Rtc.getSeconds, Rtc.getMinutes, Rtc.getHours, Rtc.getDayCounter, hhalt]

/-! ### Clearing the overflow (R271) -/

/-- The offset moves the clock time by as much. -/
theorem Rtc.readTime_withOffset (hz n : Nat) (k : Rtc) (d : Int) :
    ({ k with offsetSec := k.offsetSec - d } : Rtc).readTime hz n = k.readTime hz n - d := by
  rw [Rtc.readTime_eq, Rtc.readTime_eq, Int.add_sub_assoc]

/-- The periods that the loop of R271 takes off. -/
def Rtc.excessPeriods (hz n : Nat) (k : Rtc) : Nat := (k.readTime hz n / 44236800).toNat

theorem Rtc.clearCounterOverflow_eq (hz n : Nat) (k : Rtc) :
    k.clearCounterOverflow hz n = { k with offsetSec := k.offsetSec - k.excessPeriods hz n * 44236800 } := by
  rw [Rtc.clearCounterOverflow, Rtc.isCounterOverflow, carryOf_eq, Rtc.excessPeriods]
  by_cases hover : 44236800 ≤ k.readTime hz n
  · rw [if_pos (decide_eq_true hover), Int.toNat_of_nonneg (by omega)]
    rfl
  · rw [if_neg (by simpa using hover), Int.toNat_of_nonpos (by omega)]
    simp

theorem Rtc.readTime_clearCounterOverflow (hz n : Nat) (k : Rtc) :
    (k.clearCounterOverflow hz n).readTime hz n = k.readTime hz n - k.excessPeriods hz n * 44236800 := by
  rw [Rtc.clearCounterOverflow_eq, Rtc.readTime_withOffset]

theorem Rtc.readTime_clearCounterOverflow_emod (hz n : Nat) (k : Rtc) :
    (k.clearCounterOverflow hz n).readTime hz n % 44236800 = k.readTime hz n % 44236800 := by
  rw [Rtc.readTime_clearCounterOverflow, Int.sub_mul_emod_self_right]

/-- A running clock keeps its time modulo the period, a halted one its shadows. -/
theorem Rtc.showsSame_clearCounterOverflow (hz n : Nat) (k : Rtc) :
    Rtc.ShowsSame hz n (k.clearCounterOverflow hz n) k := by
  have hmod := k.readTime_clearCounterOverflow_emod hz n
  rw [Rtc.clearCounterOverflow_eq] at hmod ⊢
  by_cases hhalt : k.halt = true
  · exact Rtc.showsSame_of_halted hhalt (if_pos hhalt).symm (if_pos hhalt).symm (if_pos hhalt).symm (if_pos hhalt).symm
  · exact Rtc.showsSame_of_running (by simpa using hhalt) (by simpa using hhalt) hmod

/-- Settles O35: the loop runs once for each whole period in the clock time, so the time left lies below the period. -/
theorem clearOverflowIsTheLoop : Obligations.ClearOverflowIsTheLoop := by
  intro hz n k
  have hdef : k.excessPeriods hz n = (k.readTime hz n / 44236800).toNat := rfl
  have htime := k.readTime_clearCounterOverflow hz n
  refine ⟨⟨k.excessPeriods hz n, k.clearCounterOverflow_eq hz n, fun m hm => ?overflows⟩, ?ends,
    k.readTime_clearCounterOverflow_emod hz n, fun hnonneg => ?nonneg, k.showsSame_clearCounterOverflow hz n⟩
  case overflows =>
    rw [Rtc.isCounterOverflow, Rtc.readTime_withOffset, carryOf_eq, decide_eq_true_iff]
    omega
  case ends =>
    rw [Rtc.isCounterOverflow, htime, carryOf_eq, decide_eq_false_iff_not]
    omega
  case nonneg => omega

end Machine
end Sys2Proof
end

section
/-! SUPPORT. The halt transitions (46_rtc.md R264 to R266) and the seconds that the displayed registers stand for. -/

namespace Sys2Proof
namespace Machine

/-! ### The transitions -/

theorem Rtc.setHalt_true {k : Rtc} (hrun : k.halt = false) (hz n : Nat) : k.setHalt hz n true = k.enterHalt hz n := by
  simp [Rtc.setHalt, hrun]

theorem Rtc.setHalt_false {k : Rtc} (hhalt : k.halt = true) (hz n : Nat) : k.setHalt hz n false = k.resume n := by
  simp [Rtc.setHalt, hhalt]

theorem Rtc.setHalt_self (k : Rtc) (hz n : Nat) : k.setHalt hz n k.halt = k := if_pos rfl

/-- Settles O34: the two transitions are `Rtc.enterHalt` and `Rtc.resume`, the statement's `t` the wall-clock time. -/
theorem haltTransitions : Obligations.HaltTransitions := by
  intro hz n k t ht
  subst ht
  exact ⟨fun hrun => Rtc.setHalt_true hrun hz n, fun hhalt => Rtc.setHalt_false hhalt hz n, k.setHalt_self hz n⟩

/-! ### The seconds of the displayed registers -/

/-- The registers of a clock time stand for that time modulo the period. -/
theorem registers_recompose (t : Int) :
    (secondsOf t).toNat + 60 * (minutesOf t).toNat + 3600 * (hoursOf t).toNat + 86400 * (daysOf t).toNat
      = t % 44236800 := by
  rw [secondsOf_toNat, minutesOf_toNat, hoursOf_toNat, daysOf_toNat]
  omega

theorem Rtc.shadowSeconds_enterHalt (k : Rtc) (hz n : Nat) :
    (k.enterHalt hz n).shadowSeconds = k.wallTime hz n % 44236800 := registers_recompose _

/-- Without a latch, reads see the wall clock (R252). -/
theorem Rtc.readTime_of_unlatched {k : Rtc} (hlatch : k.latchStart = 0) (hz n : Nat) :
    k.readTime hz n = k.wallTime hz n := by
  simp [Rtc.readTime, Rtc.basis, Rtc.latched, hlatch, Rtc.wallTime]

/-- Within its first second an unlatched clock's time is its offset. -/
theorem Rtc.readTime_of_started {k : Rtc} {hz n : Nat} (hlatch : k.latchStart = 0)
    (hstart : max 0 ((n : Int) - k.clockStart) / (hz : Int) = 0) : k.readTime hz n = k.offsetSec := by
  rw [Rtc.readTime_of_unlatched hlatch, Rtc.wallTime, Rtc.timeAt, hstart, Int.zero_add]

/-- Settles O40: the resumed clock's time is that of the clock before, modulo the period. -/
theorem haltToggleKeepsRegisters : Obligations.HaltToggleKeepsRegisters := by
  intro hz n k k' hrun hlatch hk'
  rw [Rtc.setHalt_true hrun, Rtc.setHalt_false (k.enterHalt_halt hz n)] at hk'
  subst hk'
  have htime : ((k.enterHalt hz n).resume n).readTime hz n = k.readTime hz n % 44236800 := by
    rw [Rtc.readTime_of_started (k := (k.enterHalt hz n).resume n) hlatch (by simp), Rtc.resume_offsetSec,
      Rtc.shadowSeconds_enterHalt, Rtc.readTime_of_unlatched hlatch]
  obtain ⟨hseconds, hminutes, hhours, hdays⟩ : Rtc.ShowsSame hz n ((k.enterHalt hz n).resume n) k :=
    Rtc.showsSame_of_running rfl hrun (by omega)
  refine ⟨hseconds, hminutes, hhours, ?_, hdays, hrun.symm, ?_⟩
  · rw [Rtc.getDL, Rtc.getDL, hdays]
  · rw [Rtc.isCounterOverflow, carryOf_eq, htime, decide_eq_false_iff_not]
    omega

end Machine
end Sys2Proof
end

section
/-! SUPPORT. The time vector and the clock block (46_rtc.md R272 to R276): the block's bytes and the way back, what a clock
writes into its vector, and the clock that a vector sets. -/

namespace Sys2Proof
namespace Machine

/-! ### The block of a vector (R273, R274) -/

/-- Byte `j` of an element is its bits 8j+7:8j. -/
theorem elementBytes_getD (x : BitVec 32) {j : Nat} (hj : j < 4) :
    (elementBytes x).getD j 0 = BitVec.ofNat 8 (x.toNat / 2 ^ (8 * j)) := by
  obtain rfl | rfl | rfl | rfl : j = 0 ∨ j = 1 ∨ j = 2 ∨ j = 3 := by omega
  all_goals exact congrArg (BitVec.ofNat 8) (Nat.shiftRight_eq_div_pow _ _)

/-- The elements stand one after another, four bytes each. -/
theorem flatMap_elementBytes_getD (v : List (BitVec 32)) {i j : Nat} (hi : i < v.length) (hj : j < 4) :
    (v.flatMap elementBytes).getD (4 * i + j) 0 = (elementBytes (v.getD i 0)).getD j 0 := by
  induction v generalizing i with
  | nil => exact absurd hi (Nat.not_lt_zero i)
  | cons x xs ih =>
    rw [List.flatMap_cons]
    cases i with
    | zero => rw [List.getD_append _ _ _ _ (by simpa using hj), Nat.mul_zero, Nat.zero_add, List.getD_cons_zero]
    | succ i =>
      rw [List.getD_append_right _ _ _ _ (by rw [elementBytes_length]; omega), elementBytes_length,
        show 4 * (i + 1) + j - 4 = 4 * i + j by omega, ih (Nat.lt_of_succ_lt_succ hi), List.getD_cons_succ]

theorem clockBlock_at {v : List (BitVec 32)} {i j : Nat} (hi : i < v.length) (hj : j < 4) :
    (clockBlock v).at (4 * i + j) = BitVec.ofNat 8 ((v.getD i 0).toNat / 2 ^ (8 * j)) := by
  rw [clockBlock, Buf.ofBytes_at, flatMap_elementBytes_getD v hi hj, elementBytes_getD _ hj]

/-- The four bytes of an element, put together again. -/
theorem blockElement_clockBlock {v : List (BitVec 32)} {i : Nat} (hi : i < v.length) :
    blockElement (clockBlock v) i = v.getD i 0 := by
  have hlt := (v.getD i 0).isLt
  apply BitVec.eq_of_toNat_eq
  rw [blockElement, clockBlock_at hi (j := 3) (by omega), clockBlock_at hi (j := 2) (by omega),
    clockBlock_at hi (j := 1) (by omega), ← Nat.add_zero (4 * i), clockBlock_at hi (j := 0) (by omega)]
  simp only [Laws.TableRow.toNat_append_add, BitVec.toNat_ofNat]
  omega

theorem blockVector_clockBlock {v : List (BitVec 32)} (hv : v.length = 11) : blockVector (clockBlock v) = v := by
  apply List.ext_getElem
  · simp [blockVector, hv]
  · intro i _ hi
    simp only [blockVector, List.getElem_map, List.getElem_range]
    rw [blockElement_clockBlock hi, List.getD_eq_getElem _ _ hi]

/-- Settles O37: the bytes of the flattened vector, and each element put together again from its four. -/
theorem clockBlockBytes : Obligations.ClockBlockBytes := by
  intro v hv
  have hsize : (clockBlock v).size = 44 := by rw [clockBlock_size, hv]
  refine ⟨hsize, fun i j hi hj => ?_, blockVector_clockBlock hv⟩
  rw [Buf.get_of_lt (by omega), clockBlock_at (by omega) hj]

/-! ### The vector of a clock (R272) -/

theorem Rtc.map_toNat_serialize (hz n : Nat) (k : Rtc) :
    (k.serialize hz n).map BitVec.toNat =
      (k.registerImage hz n).map BitVec.toNat ++ (k.registerImage hz n).map BitVec.toNat ++ [n / hz % 2 ^ 32] := by
  rw [Rtc.serialize, List.map_append, List.map_append, List.map_singleton, BitVec.toNat_ofNat]

theorem zeroExtend_byte_toNat (x : Byte) : (x.zeroExtend 32).toNat = x.toNat := BitVec.toNat_setWidth_of_le (by omega)

theorem Rtc.map_toNat_registerImage (hz n : Nat) (k : Rtc) :
    (k.registerImage hz n).map BitVec.toNat =
      [(k.unlatch.getSeconds hz n).toNat, (k.unlatch.getMinutes hz n).toNat, (k.unlatch.getHours hz n).toNat,
       (k.unlatch.getDL hz n).toNat, (k.unlatch.getDH hz n).toNat] := by
  simp only [Rtc.registerImage, List.map_cons, List.map_nil, zeroExtend_byte_toNat]

/-- Settles O36: the register image of the unlatched clock twice, then the whole seconds. -/
theorem timeVectorContents : Obligations.TimeVectorContents := by
  intro hz n k u hu
  subst hu
  rw [Rtc.map_toNat_serialize, Rtc.map_toNat_registerImage]
  rfl

/-! ### The clock of a vector (R275) -/

theorem extractLsb'_zero_toNat {w : Nat} (x : BitVec w) (m : Nat) : (x.extractLsb' 0 m).toNat = x.toNat % 2 ^ m := by
  rw [BitVec.extractLsb'_toNat, Nat.shiftRight_zero]

/-- Settles O38: the offset is the sum of R275, and each other field a bit or the low bits of its element. -/
theorem deserializeSetsClock : Obligations.DeserializeSetsClock := by
  intro hz v0 v1 v2 v3 v4 v5 v6 v7 v8 v9 v10 k hk
  subst hk
  refine ⟨?offset, by simp [Rtc.deserialize], Nat.testBit_eq_decide_div_mod_eq, extractLsb'_zero_toNat v0 8,
    extractLsb'_zero_toNat v1 8, extractLsb'_zero_toNat v2 8, ?days, rfl⟩
  case offset =>
    have hbit0 : (v4.getLsbD 0).toNat = v4.toNat % 2 := by
      rw [BitVec.getLsbD, Nat.toNat_testBit, Nat.pow_zero, Nat.div_one]
    have hbit7 : v4.getLsbD 7 = decide (v4.toNat / 128 % 2 = 1) := Nat.testBit_eq_decide_div_mod_eq
    simp [Rtc.deserialize, -BitVec.getLsbD_eq_getElem, hbit0, hbit7, Config.period]
  case days =>
    show (v4.extractLsb' 0 1 ++ v3.extractLsb' 0 8).toNat = _
    rw [Laws.TableRow.toNat_append_add, extractLsb'_zero_toNat, extractLsb'_zero_toNat]
    omega

/-! ### A clock and the clock of its block (R276) -/

/-- The seconds that the displayed registers stand for. -/
def Rtc.shownSeconds (hz n : Nat) (k : Rtc) : Int :=
  (k.getSeconds hz n).toNat + 60 * (k.getMinutes hz n).toNat + 3600 * (k.getHours hz n).toNat
    + 86400 * (k.getDayCounter hz n).toNat

theorem Rtc.shownSeconds_of_running {k : Rtc} (hrun : k.halt = false) (hz n : Nat) :
    k.shownSeconds hz n = k.readTime hz n % 44236800 := by
  rw [← registers_recompose]
  simp [Rtc.shownSeconds, Rtc.getSeconds, Rtc.getMinutes, Rtc.getHours, Rtc.getDayCounter, hrun]

theorem Rtc.shownSeconds_nonneg (k : Rtc) (hz n : Nat) : 0 ≤ k.shownSeconds hz n := by
  rw [Rtc.shownSeconds]
  omega

/-- A running clock, and shadows in range, stand for less than a period. -/
theorem Rtc.shownSeconds_lt {k : Rtc} (hrange : k.halt = false ∨
    (k.haltSeconds.toNat < 60 ∧ k.haltMinutes.toNat < 60 ∧ k.haltHours.toNat < 24)) (hz n : Nat) :
    k.shownSeconds hz n < 44236800 := by
  cases hhalt : k.halt with
  | false =>
    rw [Rtc.shownSeconds_of_running hhalt]
    exact Int.emod_lt_of_pos _ (by decide)
  | true =>
    obtain ⟨hseconds, hminutes, hhours⟩ := hrange.resolve_left (by simp [hhalt])
    have hdays := k.haltDays.isLt
    simp only [Rtc.shownSeconds, Rtc.getSeconds, Rtc.getMinutes, Rtc.getHours, Rtc.getDayCounter, hhalt, if_true]
    omega

/-- The fields of the day-high register (R259). -/
theorem Rtc.getDH_fields (hz n : Nat) (k : Rtc) :
    (k.getDH hz n).toNat % 2 = (k.getDayCounter hz n).toNat / 256 ∧ (k.getDH hz n).toNat / 64 % 2 = k.halt.toNat ∧
      (k.getDH hz n).toNat / 128 % 2 = (k.isCounterOverflow hz n).toNat := by
  have hsum := k.getDH_toNat hz n
  have hdays := (k.getDayCounter hz n).isLt
  have hhalt := k.halt.toNat_le
  have hcarry := (k.isCounterOverflow hz n).toNat_le
  omega

/-- What a vector read back sets (R275), of a vector that an unlatched clock wrote: the registers are the shadows, and the
offset is the seconds they stand for, with a period more for the carry. -/
theorem Rtc.deserialize_serialize {hz n : Nat} {k k' : Rtc} (hlatch : k.latchStart = 0) (hfits : n / hz < 2 ^ 32)
    (hk' : k' = Rtc.deserialize hz (k.serialize hz n)) :
    k'.offsetSec = k.shownSeconds hz n + (if k.isCounterOverflow hz n then 44236800 else 0) ∧
    k'.clockStart = (n / hz : Nat) * (hz : Int) ∧ k'.halt = k.halt ∧ k'.haltSeconds = k.getSeconds hz n ∧
    k'.haltMinutes = k.getMinutes hz n ∧ k'.haltHours = k.getHours hz n ∧ k'.haltDays = k.getDayCounter hz n ∧
    k'.latchStart = 0 := by
  have hunlatch : k.unlatch = k := by rw [Rtc.unlatch, ← hlatch]
  obtain ⟨hday8, hhaltBit, hcarry⟩ := k.getDH_fields hz n
  obtain ⟨hoffset, hstart, hhalt, hseconds, hminutes, hhours, hdays, hlatch'⟩ :=
    deserializeSetsClock hz _ _ _ _ _ _ _ _ _ _ _ k' hk'
  rw [BitVec.toNat_ofNat, Nat.mod_eq_of_lt hfits] at hstart
  rw [hunlatch] at hoffset hhalt hseconds hminutes hhours hdays
  simp only [zeroExtend_byte_toNat] at hoffset hhalt hseconds hminutes hhours hdays
  refine ⟨?offset, hstart, ?halt, BitVec.eq_of_toNat_eq ?_, BitVec.eq_of_toNat_eq ?_, BitVec.eq_of_toNat_eq ?_,
    BitVec.eq_of_toNat_eq ?days, hlatch'⟩
  case offset =>
    simp only [hcarry, Bool.toNat_eq_one, Rtc.getDL_toNat] at hoffset
    rw [hoffset, Rtc.shownSeconds]
    omega
  case halt =>
    rw [hhalt, hhaltBit]
    cases k.halt <;> rfl
  case days =>
    rw [hdays, hday8, Rtc.getDL_toNat]
    omega
  · rw [hseconds, Nat.mod_eq_of_lt (BitVec.isLt _)]
  · rw [hminutes, Nat.mod_eq_of_lt (BitVec.isLt _)]
  · rw [hhours, Nat.mod_eq_of_lt (BitVec.isLt _)]

/-- Less than a second lies between the last whole second and now. -/
theorem elapsed_since_wholeSecond {hz : Nat} (hpos : 0 < hz) (n : Nat) :
    max 0 ((n : Int) - (n / hz : Nat) * (hz : Int)) / (hz : Int) = 0 := by
  have hrem := Int.emod_nonneg (n : Int) (Int.natCast_ne_zero.2 hpos.ne')
  have hlt := Int.emod_lt_of_pos (n : Int) (Int.natCast_pos.2 hpos)
  rw [Int.natCast_ediv, mul_comm, ← Int.emod_def, max_eq_right hrem, Int.ediv_eq_zero_of_lt hrem hlt]

/-- A period more than less than a period: the carry comes back. -/
theorem carryOf_add_period {d : Int} (hlt : d < 44236800) (hnonneg : 0 ≤ d) (c : Bool) :
    carryOf (d + (if c then 44236800 else 0)) = c := by
  cases c with
  | false => simpa [carryOf_eq] using hlt
  | true => simpa [carryOf_eq] using hnonneg

/-- Settles O39: the loaded clock's time is its offset, and the offset is the time at the save, modulo the period. -/
theorem clockSurvivesItsBlock : Obligations.ClockSurvivesItsBlock := by
  intro hz n k k' hpos hfits hlatch hk'
  rw [blockVector_clockBlock (k.serialize_length hz n)] at hk'
  obtain ⟨hoffset, hstart, hhalt, hseconds, hminutes, hhours, hdays, hlatch'⟩ :=
    Rtc.deserialize_serialize hlatch hfits hk'
  have htime : k'.readTime hz n = k.shownSeconds hz n + (if k.isCounterOverflow hz n then 44236800 else 0) := by
    rw [← hoffset]
    exact Rtc.readTime_of_started hlatch' (by rw [hstart, elapsed_since_wholeSecond hpos])
  have hshows : Rtc.ShowsSame hz n k' k := by
    cases hstate : k.halt with
    | true => exact Rtc.showsSame_of_halted (hhalt.trans hstate) hseconds hminutes hhours hdays
    | false =>
      apply Rtc.showsSame_of_running (hhalt.trans hstate) hstate
      rw [htime, Rtc.shownSeconds_of_running hstate]
      split <;> omega
  obtain ⟨hsameSeconds, hsameMinutes, hsameHours, hsameDays⟩ := hshows
  refine ⟨hsameSeconds, hsameMinutes, hsameHours, hsameDays, hhalt, hlatch', fun hrange => ?_⟩
  rw [Rtc.isCounterOverflow, htime, carryOf_add_period (Rtc.shownSeconds_lt hrange hz n) (k.shownSeconds_nonneg hz n)]

end Machine
end Sys2Proof
end

section
/-! SUPPORT. The battery arbiter (47_battery.md): which bus transactions change the battery (R290, R299), the bytes of the
save image (R310), and the outcomes of FLUSH (R305 to R307). -/

namespace Sys2Proof
namespace Machine

/-! ### The save trigger (R299) -/

/-- A save touches nothing that decoding depends on. -/
@[simp] theorem Block.afterEnableWrite_ctx (b : Block) (e : Bool) (n : Nat) : (b.afterEnableWrite e n).ctx = b.ctx := by
  simp [Block.ctx]

theorem Block.saveTrigger_bat_of_file {b : Block} {m : FileBattery} (hbat : b.bat = .file m) (n : Nat) :
    (b.saveTrigger n).bat = .file (m.save b n) := by
  simp only [Block.saveTrigger, hbat]

/-- The no-op battery does nothing (R290). -/
theorem Block.saveTrigger_bat_of_not_file {b : Block} (hfile : b.bat.isFile = false) (n : Nat) :
    (b.saveTrigger n).bat = b.bat := by
  cases hbat : b.bat with
  | null => simp only [Block.saveTrigger, hbat]
  | file m => simp [hbat] at hfile

/-- What a write transaction does to the battery: nothing, or the save of a RAM-enable write that leaves the flag clear. -/
theorem WriteEffect.bat_cases {i : Instr} {now : Nat} {b b' : Block} (he : WriteEffect i now b b') :
    b'.bat = b.bat ∨ (i.isRamGate = true ∧ b'.ctx.ramEnable = false ∧ b.bat.isFile = true) := by
  cases he with
  | gate c e hi hv hl hflag =>
    cases e with
    | true => exact .inl rfl
    | false =>
      cases hfile : b.bat.isFile with
      | false => exact .inl (Block.saveTrigger_bat_of_not_file (b := { b with ctrl := c }) hfile now)
      | true => exact .inr ⟨hi, by rw [Block.afterEnableWrite_ctx, hflag], rfl⟩
  | _ => exact .inl rfl

/-- Settles O32: a read leaves the block, and a write either leaves the battery or is a disabling RAM-enable write. -/
theorem onlyDisablingWritesSave : Obligations.OnlyDisablingWritesSave := by
  intro i s t b b' hi hb ht hb' hne
  obtain ⟨c, hc, ⟨-, v, rfl⟩ | ⟨-, c', he, rfl⟩⟩ := exec_bus hi ht
  · obtain rfl := Option.some.inj (hb.symm.trans hb')
    exact absurd rfl hne
  · obtain rfl := Option.some.inj (hc.symm.trans hb)
    obtain rfl := Option.some.inj hb'
    exact he.bat_cases.resolve_left hne

/-! ### The save image (R305, R310) -/

theorem Buf.append_get_left {a b : Buf} (ha : a.wf = true) {j : Nat} (hj : j < a.size) :
    (a.append b).get j = a.get j := by
  rw [Buf.get_of_lt (Nat.lt_add_right b.size hj), Buf.get_of_lt hj, Buf.append_at ha, if_pos hj]

theorem Buf.append_get_right {a b : Buf} (ha : a.wf = true) (j : Nat) : (a.append b).get (a.size + j) = b.get j := by
  simp [Buf.get, Buf.append_at ha]

theorem FileBattery.image_of_clockPresent {m : FileBattery} (h : m.clockPresent = true) :
    m.image = m.bRam.append m.bClock := if_pos h

theorem FileBattery.image_size (m : FileBattery) :
    m.image.size = m.bRam.size + (if m.clockPresent then m.bClock.size else 0) := by
  unfold FileBattery.image
  split <;> rfl

/-- The image begins with the mirror. -/
theorem FileBattery.image_get {m : FileBattery} (hram : m.bRam.wf = true) {j : Nat} (hj : j < m.bRam.size) :
    m.image.get j = m.bRam.get j := by
  unfold FileBattery.image
  split
  · exact Buf.append_get_left hram hj
  · rfl

/-- The buffers of a well-formed block's battery: their lengths (R33) and their canonical form. -/
theorem Block.file_buffers {b : Block} {m : FileBattery} (hw : b.wf = true) (hbat : b.bat = .file m) :
    (m.bRam.size = b.params.ramSize ∧ m.bClock.size = 44) ∧ m.bRam.wf = true ∧ m.bClock.wf = true := by
  obtain ⟨-, -, -, -, -, hfits⟩ := Block.wf_iff.1 hw
  obtain ⟨-, hlen, hcanon⟩ := Battery.fits_iff.1 (hbat ▸ hfits)
  exact ⟨Battery.lengthFault_none.1 hlen, by simpa [Battery.canonical] using hcanon⟩

/-! ### FLUSH (R305 to R307) -/

/-- Nothing waits to be flushed: no battery, or none of it dirty. -/
def Battery.clean : Battery → Bool
  | .null => true
  | .file m => !m.dirty

theorem Battery.clean_or_dirty (t : Battery) : t.clean = true ∨ ∃ m, t = .file m ∧ m.dirty = true := by
  cases t with
  | null => exact .inl rfl
  | file m =>
    cases hd : m.dirty with
    | false => exact .inl (by simp [Battery.clean, hd])
    | true => exact .inr ⟨m, rfl, hd⟩

theorem execFlush_of_clean {s : State} {b : Block} (hb : s.block = some b) (hclean : b.bat.clean = true) :
    execFlush s = .next { s with result := .done } := by
  cases hbat : b.bat with
  | null => exact execFlush_null hb hbat
  | file m => exact execFlush_clean hb hbat (by simpa [Battery.clean, hbat] using hclean)

/-- Settles O41: FLUSH's four equations, with the image read as mirror and clock block. -/
theorem flushOutcomes : Obligations.FlushOutcomes := by
  intro s b hb hw
  refine ⟨execFlush_null hb, fun m hbat => ⟨execFlush_clean hb hbat, fun hdirty hok => ?accepted, fun hdirty hfail =>
    ⟨_, _, execFlush_failed hb hbat hdirty hfail⟩⟩⟩
  case accepted =>
    obtain ⟨⟨-, hclock⟩, hram, -⟩ := Block.file_buffers hw hbat
    refine ⟨m.image, ?_, fun j => FileBattery.image_get hram, fun j hpresent _ => ?_, execFlush_ok hb hbat hdirty hok⟩
    · rw [FileBattery.image_size, hclock]
    · rw [FileBattery.image_of_clockPresent hpresent, Buf.append_get_right hram]

/-- Settles O42: a FLUSH that succeeds leaves the battery clean, and one that fails leaves the block as it was, so that the
next one writes the same image. -/
theorem flushIsIdempotent : Obligations.FlushIsIdempotent := by
  intro s t a a' ht
  obtain ⟨b, hb, -⟩ := State.onBlock_next ht
  have hbOf : ∀ x : HostArgs, ({ s with args := x } : State).block = some b := fun _ => hb
  obtain hclean | ⟨m, hbat, hdirty⟩ := b.bat.clean_or_dirty
  · obtain rfl := Host.Outcome.next.inj ((execFlush_of_clean (hbOf a) hclean).symm.trans ht)
    have hagain : ∀ x r, exec .flush { s with args := x, result := r } = .next { s with args := x, result := .done } :=
      fun _ _ => execFlush_of_clean hb hclean
    exact ⟨fun _ => hagain a' .done, fun _ _ => ⟨_, _, hagain a' .done, hagain a' s.result, rfl, rfl, rfl⟩⟩
  · refine ⟨fun hok => ?accepted, fun hfail hok' => ?refused⟩
    case accepted =>
      obtain rfl := Host.Outcome.next.inj ((execFlush_ok (hbOf a) hbat hdirty hok).symm.trans ht)
      exact execFlush_of_clean rfl rfl
    case refused =>
      obtain rfl := Host.Outcome.next.inj ((execFlush_failed (hbOf a) hbat hdirty hfail).symm.trans ht)
      exact ⟨_, _, execFlush_ok (hbOf a') hbat hdirty hok', execFlush_ok (hbOf a') hbat hdirty hok', rfl, rfl, rfl⟩

end Machine
end Sys2Proof
end

section
/-! SUPPORT. Snapshot and restore (48_snapshot.md): the value that SNAPSHOT returns (R322), the checks of RESTORE one by one
(R324), and what it leaves where they pass (R325, R326). -/

namespace Sys2Proof
namespace Machine

theorem execSnapshot_eq {s : State} {b : Block} (hb : s.block = some b) :
    execSnapshot s = .next { s with result := .snapshot b.snap } :=
  State.onBlock_some hb _

/-- Settles O43: the snapshot holds the block's own elements. -/
theorem snapshotReturnsState : Obligations.SnapshotReturnsState := fun _ _ hb => execSnapshot_eq hb

/-! ### The checks in their order (R324) -/

section
variable {p : Params} {v : CartSnap}

theorem restoreFault_of_variant_ne (h : v.ctrl.variant ≠ p.variant) :
    restoreFault p v = some (.snapshotTypeMismatch .ctrl) := if_pos h

theorem restoreFault_of_isFile_ne (hv : v.ctrl.variant = p.variant) (h : v.bat.isFile ≠ p.hasBattery) :
    restoreFault p v = some (.snapshotTypeMismatch .bat) := by
  rw [restoreFault, if_neg (not_not.2 hv), if_pos h]

theorem restoreFault_of_ram_size_ne (hv : v.ctrl.variant = p.variant) (hf : v.bat.isFile = p.hasBattery)
    (h : v.ram.size ≠ p.ramSize) : restoreFault p v = some (.snapshotLengthMismatch .ram) := by
  rw [restoreFault, if_neg (not_not.2 hv), if_neg (not_not.2 hf), if_pos h]

/-- Where the first three checks pass, the lengths of the battery's buffers decide. -/
theorem restoreFault_eq_lengthFault (hv : v.ctrl.variant = p.variant) (hf : v.bat.isFile = p.hasBattery)
    (hr : v.ram.size = p.ramSize) : restoreFault p v = v.bat.lengthFault p := by
  rw [restoreFault, if_neg (not_not.2 hv), if_neg (not_not.2 hf), if_neg (not_not.2 hr)]

end

theorem Battery.lengthFault_of_bRam_size_ne {p : Params} {m : FileBattery} (h : m.bRam.size ≠ p.ramSize) :
    (Battery.file m).lengthFault p = some (.snapshotLengthMismatch .bRam) := if_pos h

theorem Battery.lengthFault_of_bClock_size_ne {p : Params} {m : FileBattery} (hr : m.bRam.size = p.ramSize)
    (h : m.bClock.size ≠ 44) : (Battery.file m).lengthFault p = some (.snapshotLengthMismatch .bClock) :=
  (if_neg (not_not.2 hr)).trans (if_pos h)

/-- Every buffer that there is has its length. -/
theorem Battery.lengthFault_eq_none {p : Params} {t : Battery}
    (h : ∀ m, t = .file m → m.bRam.size = p.ramSize ∧ m.bClock.size = 44) : t.lengthFault p = none := by
  cases t with
  | null => rfl
  | file m => exact Battery.lengthFault_none.2 (h m rfl)

/-! ### RESTORE (R324, R325) -/

theorem execRestore_of_fault {s : State} {b : Block} {f : SpecFault} (hb : s.block = some b)
    (h : restoreFault b.params s.args.snap = some f) : execRestore s = .next { s with result := .fault f } := by
  rw [execRestore, State.onBlock_some hb, h]
  rfl

theorem execRestore_of_passes {s : State} {b : Block} (hb : s.block = some b)
    (h : restoreFault b.params s.args.snap = none) :
    execRestore s = .next { s with block := some (b.restored s.args.snap), result := .done } := by
  rw [execRestore, State.onBlock_some hb, h]
  rfl

/-- Settles O44: the chain of checks, each clause with those before it passed. -/
theorem restoreChecksThenRestores : Obligations.RestoreChecksThenRestores := by
  rintro s b _ hb rfl
  refine ⟨fun hv => execRestore_of_fault hb (restoreFault_of_variant_ne hv), fun hv =>
    ⟨fun hf => execRestore_of_fault hb (restoreFault_of_isFile_ne hv hf), fun hf =>
      ⟨fun hr => execRestore_of_fault hb (restoreFault_of_ram_size_ne hv hf hr), fun hr => ?lengths⟩⟩⟩
  case lengths =>
    have hlen : restoreFault b.params s.args.snap = s.args.snap.bat.lengthFault b.params :=
      restoreFault_eq_lengthFault hv hf hr
    refine ⟨fun m hm hram => ?bRam, fun m hm hram hclock => ?bClock, fun hall => ?passes⟩
    case bRam =>
      rw [hm, Battery.lengthFault_of_bRam_size_ne hram] at hlen
      exact execRestore_of_fault hb hlen
    case bClock =>
      rw [hm, Battery.lengthFault_of_bClock_size_ne hram hclock] at hlen
      exact execRestore_of_fault hb hlen
    case passes => exact execRestore_of_passes hb (hlen.trans (Battery.lengthFault_eq_none hall))

/-- A well-formed block's snapshot passes the checks of its own parameters. -/
theorem restoreFault_snap {b : Block} (hw : b.wf = true) : restoreFault b.params b.snap = none := by
  obtain ⟨-, hv, -, hr, -, hfits⟩ := Block.wf_iff.1 hw
  obtain ⟨hf, hlen, -⟩ := Battery.fits_iff.1 hfits
  exact (restoreFault_eq_lengthFault hv hf hr).trans hlen

/-- But for the parameters a snapshot holds the whole block. -/
theorem Block.restored_snap {b b' : Block} (hp : b'.params = b.params) : b'.restored b.snap = b := by
  simp only [Block.restored, Block.snap, hp]

/-- Settles O45: the value SNAPSHOT returned passes the checks, and what it restores is the block itself. -/
theorem restoreOfSnapshotBringsStateBack : Obligations.RestoreOfSnapshotBringsStateBack := by
  intro s0 t0 s1 b0 b1 v hb0 hw ht0 hv hb1 hp hsnap
  obtain rfl := Host.Outcome.next.inj ((execSnapshot_eq hb0).symm.trans ht0)
  obtain rfl := Result.snapshot.inj hv
  have hpass : restoreFault b1.params s1.args.snap = none := by rw [hp, hsnap, restoreFault_snap hw]
  have hrestore := execRestore_of_passes hb1 hpass
  rwa [hsnap, Block.restored_snap hp] at hrestore

end Machine
end Sys2Proof
end

section
/-! SUPPORT. Configuration (49_configuration.md): the tables (R344 to R354), and what a header resolves to, one equation for
each check of R380's order. -/

namespace Sys2Proof
namespace Machine

/-! ### The tables (R345 to R351) -/

/-- The codes between the table's runs, and all from 0x1F on, are of no type (R346). -/
theorem cartType_eq_none {c : Byte} (h : c.toNat = 0x04 ∨ c.toNat = 0x07 ∨ (0x0A ≤ c.toNat ∧ c.toNat ≤ 0x0E) ∨
    (0x14 ≤ c.toNat ∧ c.toNat ≤ 0x18) ∨ 0x1F ≤ c.toNat) : cartType c = none := by
  unfold cartType
  split
  case h_20 => rfl
  all_goals omega

theorem romBanksOf_of_le {c : Byte} (h : c.toNat ≤ 8) : romBanksOf c = some (2 * 2 ^ c.toNat) := by
  rw [romBanksOf, if_pos h, Nat.shiftLeft_eq]

theorem romBanksOf_of_gt {c : Byte} (h : 8 < c.toNat) : romBanksOf c = none := if_neg (by omega)

theorem romBanksOf_pos {c : Byte} {n : Nat} (h : romBanksOf c = some n) : 0 < n := by
  unfold romBanksOf at h
  split_ifs at h
  obtain rfl := Option.some.inj h
  rw [Nat.shiftLeft_eq]
  positivity

theorem rawRamBanksOf_eq_none {c : Byte} (h : 5 < c.toNat) : rawRamBanksOf c = none := by
  unfold rawRamBanksOf
  split
  case h_7 => rfl
  all_goals omega

theorem resolveRamBanks_eq (t : CartType) (raw : Nat) : resolveRamBanks t raw =
    if t.variant = .mbc2 then 1 else if t.declaresRam = true ∧ raw = 0 then 1 else raw := by
  simp only [resolveRamBanks, Bool.and_eq_true, beq_iff_eq]

/-- Settles O52: single codes are evaluated, ranges of codes have their lemmas. -/
theorem configurationTables : Obligations.ConfigurationTables :=
  ⟨rfl, rfl, fun _ => cartType_eq_none, fun _ => romBanksOf_of_le, fun _ => romBanksOf_of_gt,
    rfl, rfl, rfl, rfl, rfl, rfl, fun _ => rawRamBanksOf_eq_none, resolveRamBanks_eq, fun _ => rfl, fun _ => rfl,
    rfl, rfl, rfl, rfl, rfl, rfl⟩

/-! ### The header's checks in their order (R380) -/

section
variable {rom dmg cgb : Buf} {o : ColourOverride} {e : Env} {t : CartType} {n raw : Nat}

theorem headerParams_of_short (h : rom.size < 0x014A) : headerParams rom o dmg cgb e = .error .configRomLength :=
  if_pos h

theorem headerParams_of_no_type (hlong : 0x014A ≤ rom.size) (h : cartType (rom.at 0x0147) = none) :
    headerParams rom o dmg cgb e = .error .configUnsupportedType := by
  rw [headerParams, if_neg (by omega), h]

theorem headerParams_of_no_romBanks (hlong : 0x014A ≤ rom.size) (ht : cartType (rom.at 0x0147) = some t)
    (h : romBanksOf (rom.at 0x0148) = none) :
    headerParams rom o dmg cgb e = .error (.configUnsupportedRomSize (rom.at 0x0148)) := by
  rw [headerParams, if_neg (by omega), ht]
  simp only [h]

theorem headerParams_of_no_ramBanks (hlong : 0x014A ≤ rom.size) (ht : cartType (rom.at 0x0147) = some t)
    (hn : romBanksOf (rom.at 0x0148) = some n) (h : rawRamBanksOf (rom.at 0x0149) = none) :
    headerParams rom o dmg cgb e = .error (.configUnsupportedRamSize (rom.at 0x0149)) := by
  rw [headerParams, if_neg (by omega), ht]
  simp only [hn, h]

/-- An image of the wrong length is the same fault whether it ends before its header does or not (R352). -/
theorem headerParams_of_length_ne (ht : cartType (rom.at 0x0147) = some t) (hn : romBanksOf (rom.at 0x0148) = some n)
    (hraw : rawRamBanksOf (rom.at 0x0149) = some raw) (h : rom.size ≠ n * 0x4000) :
    headerParams rom o dmg cgb e = .error .configRomLength := by
  by_cases hshort : rom.size < 0x014A
  · exact headerParams_of_short hshort
  · rw [headerParams, if_neg hshort, ht]
    simp only [hn, hraw]
    exact if_pos h

/-- The parameters that the tables give (R345 to R356), with BOOT by the colour mode. -/
def Params.ofHeader (rom dmg cgb : Buf) (o : ColourOverride) (e : Env) (t : CartType) (n raw : Nat) : Params :=
  { rom := rom, variant := t.variant, romBanks := n, ramBanks := resolveRamBanks t raw, hasBattery := t.battery,
    cgb := colourMode o (cgbFlagOf (rom.at 0x0143)),
    boot := if colourMode o (cgbFlagOf (rom.at 0x0143)) then cgb else dmg, openBus := e.openBus, ramFill := e.ramFill,
    tickHz := e.tickHz, latchPolicy := e.latchPolicy }

/-- A bank is longer than the header, so an image of whole banks has one. -/
theorem headerParams_of_tables (ht : cartType (rom.at 0x0147) = some t) (hn : romBanksOf (rom.at 0x0148) = some n)
    (hraw : rawRamBanksOf (rom.at 0x0149) = some raw) (hlen : rom.size = n * 0x4000) :
    headerParams rom o dmg cgb e = .ok (.ofHeader rom dmg cgb o e t n raw) := by
  have hpos := romBanksOf_pos hn
  rw [headerParams, if_neg (by omega), ht]
  simp only [hn, hraw]
  exact if_neg (not_not.2 hlen)

end

/-- Settles O53: the codes pass every check, and the four codes of R355 are evaluated. -/
theorem headerGivesParameters : Obligations.HeaderGivesParameters := by
  refine ⟨?_, rfl, rfl, rfl, rfl⟩
  rintro rom dmg cgb o e t n raw _ ht hn hraw hlen rfl
  exact headerParams_of_tables ht hn hraw hlen

/-! ### Parameters taken directly (R352) -/

theorem resolveConfig_direct_of_length_ne {p : Params} (h : p.rom.size ≠ p.romBanks * 0x4000) :
    resolveConfig (.direct p) = .error .configRomLength := if_pos h

theorem resolveConfig_direct_of_length {p : Params} (h : p.rom.size = p.romBanks * 0x4000) :
    resolveConfig (.direct p) = .ok p := if_neg (not_not.2 h)

end Machine
end Sys2Proof
end

section
/-! SUPPORT. The outcomes of POWER_ON and POWER_OFF (70_reset_and_hazards.md R400, R401, R405) and the faults that they and
the bus report (60_exceptions.md R371 to R381). -/

namespace Sys2Proof
namespace Machine

/-! ### The three outcomes of POWER_ON on a configuration in range (R380, R381, R400) -/

section
variable {s : State} {p : Params}

theorem execPowerOn_of_error {f : SpecFault} (hr : s.args.config.inRange = true)
    (h : resolveConfig s.args.config = .error f) : execPowerOn s =
      .next { s with block := none, file := s.args.store.pick s.file, result := .fault f } := by
  rw [execPowerOn, if_neg (by simp [hr]), h]
  rfl

theorem execPowerOn_of_unreadable (hr : s.args.config.inRange = true) (h : resolveConfig s.args.config = .ok p)
    (hbat : p.hasBattery = true) (hio : s.args.ioOk = false) : execPowerOn s =
      .next { s with block := none, file := s.args.store.pick s.file, result := .fault .ioFailure } := by
  rw [execPowerOn, if_neg (by simp [hr]), h]
  exact if_pos (by simp [hbat, hio])

/-- The store has to be readable only where there is a battery to load (R290). -/
theorem execPowerOn_of_ok (hr : s.args.config.inRange = true) (h : resolveConfig s.args.config = .ok p)
    (hload : p.hasBattery = false ∨ s.args.ioOk = true) : execPowerOn s =
      .next { s with
        file := s.args.store.pick s.file
        block := some (Block.powerOn p (s.args.store.pick s.file) s.now)
        result := .done } := by
  rw [execPowerOn, if_neg (by simp [hr]), h]
  exact if_neg (by obtain hload | hload := hload <;> simp [hload])

/-- A POWER_ON that answers met a configuration in range, and one of the three cases. -/
theorem execPowerOn_cases {t : State} (ht : execPowerOn s = .next t) : s.args.config.inRange = true ∧
    ((∃ f, resolveConfig s.args.config = .error f) ∨
      ∃ p, resolveConfig s.args.config = .ok p ∧
        ((p.hasBattery = true ∧ s.args.ioOk = false) ∨ (p.hasBattery = false ∨ s.args.ioOk = true))) := by
  cases hr : s.args.config.inRange with
  | false =>
    rw [execPowerOn, if_pos (by simp [hr])] at ht
    cases ht
  | true =>
    refine ⟨rfl, ?_⟩
    cases hres : resolveConfig s.args.config with
    | error f => exact .inl ⟨f, rfl⟩
    | ok p => exact .inr ⟨p, rfl, by cases p.hasBattery <;> cases s.args.ioOk <;> simp⟩

end

/-- Settles O50: each of the three outcomes is written in the arguments, the store and the time alone. -/
theorem powerOnForgetsEarlierLife : Obligations.PowerOnForgetsEarlierLife := by
  rintro s ⟨b', _, q', _, _, r', n'⟩ t rfl rfl rfl ht
  obtain ⟨hr, ⟨f, herr⟩ | ⟨p, hok, ⟨hbat, hio⟩ | hload⟩⟩ := execPowerOn_cases ht
  · obtain rfl := Host.Outcome.next.inj ((execPowerOn_of_error hr herr).symm.trans ht)
    exact ⟨_, execPowerOn_of_error hr herr, rfl, rfl, rfl⟩
  · obtain rfl := Host.Outcome.next.inj ((execPowerOn_of_unreadable hr hok hbat hio).symm.trans ht)
    exact ⟨_, execPowerOn_of_unreadable hr hok hbat hio, rfl, rfl, rfl⟩
  · obtain rfl := Host.Outcome.next.inj ((execPowerOn_of_ok hr hok hload).symm.trans ht)
    exact ⟨_, execPowerOn_of_ok hr hok hload, rfl, rfl, rfl⟩

/-- Settles O49: POWER_OFF asks for nothing, not even for a block (log 11). -/
theorem powerOffKeepsStoreOnly : Obligations.PowerOffKeepsStoreOnly := fun _ => rfl

/-! ### The faults of POWER_ON (R352, R371, R372, R375, R378) -/

/-- Settles O48: each clause is the equation of its check, the store as `StoreArg.pick` finds it. -/
theorem powerOnReportsFirstFault : Obligations.PowerOnReportsFirstFault := by
  rintro s rom dmg cgb o e _ hconf hr rfl
  have hres : resolveConfig s.args.config = headerParams rom o dmg cgb e := by rw [hconf]; rfl
  have hreport : ∀ f, headerParams rom o dmg cgb e = .error f → execPowerOn s =
      .next { s with block := none, file := s.args.store.pick s.file, result := .fault f } :=
    fun f hf => execPowerOn_of_error hr (hres.trans hf)
  refine ⟨fun h => hreport _ (headerParams_of_short h), fun hlong =>
    ⟨fun h => hreport _ (headerParams_of_no_type hlong h), fun t ht =>
      ⟨fun h => hreport _ (headerParams_of_no_romBanks hlong ht h), fun n hn =>
        ⟨fun h => hreport _ (headerParams_of_no_ramBanks hlong ht hn h), fun raw hraw =>
          ⟨fun h => hreport _ (headerParams_of_length_ne ht hn hraw h), fun hlen hbat hio => ?unreadable⟩⟩⟩⟩⟩
  case unreadable =>
    exact execPowerOn_of_unreadable hr (hres.trans (headerParams_of_tables ht hn hraw hlen)) hbat hio

/-- Settles O60: a wrong length is an error of either kind of configuration, an unreadable store a fault after it. -/
theorem powerOnLengthAndStoreFaults : Obligations.PowerOnLengthAndStoreFaults := by
  rintro s _ hr rfl
  have hreport : ∀ f, execPowerOn s =
      .next { s with block := none, file := s.args.store.pick s.file, result := .fault f } →
      ∃ t, exec .powerOn s = .next t ∧ t.result = .fault f ∧ t.block = none ∧
        (s.args.store = .asItStands → t = { s with block := none, result := .fault f }) :=
    fun f hf => ⟨_, hf, rfl, rfl, fun hstore => by rw [hstore]; rfl⟩
  have hlength (herr : resolveConfig s.args.config = .error .configRomLength) :=
    hreport .configRomLength (execPowerOn_of_error hr herr)
  have hstore (p : Params) (hok : resolveConfig s.args.config = .ok p) (hbat : p.hasBattery = true)
      (hio : s.args.ioOk = false) := hreport .ioFailure (execPowerOn_of_unreadable hr hok hbat hio)
  refine ⟨fun p hconf h => hlength ?_, fun rom dmg cgb o e t n raw hconf ht hn hraw h => hlength ?_,
    fun p hconf h => hstore p ?_, hstore⟩
  · rw [hconf, resolveConfig_direct_of_length_ne h]
  · rw [hconf]
    exact headerParams_of_length_ne ht hn hraw h
  · rw [hconf, resolveConfig_direct_of_length h]

/-! ### The fault of the bus (R122, R376) -/

theorem State.decoded_bus {s : State} {b : Block} (hb : s.block = some b) (w : TWord) :
    s.decoded (.bus w) = decode (some b.ctx) (.t w) := by
  rw [State.decoded, hb]
  rfl

/-- Settles O9: the address is not claimed, so the decoder rejects the word by it, and the rejection is the report. -/
theorem unclaimedAddressIsReported : Obligations.UnclaimedAddressIsReported := by
  intro s b n w q hb hq haddr
  have hne : w.addr ≠ 0xFF50#16 := by
    intro hff
    rw [hff] at haddr
    revert haddr
    decide
  have hunclaimed : accepts w.addr = false := by
    rw [Bool.eq_false_iff, Ne, accepts_iff_of_ne hne]
    omega
  obtain ⟨-, -, hreject⟩ := exactlyClaimedAddressesDecode b.ctx w
  exact step_of_decoded_rejected hq ((State.decoded_bus hb w).trans (hreject hunclaimed))

end Machine
end Sys2Proof
end

section
/-! SUPPORT. The block that POWER_ON leaves (70_reset_and_hazards.md R400, 47_battery.md R290 to R296): with nothing to load,
with a save image, and with the image of the block's own save (R313). -/

namespace Sys2Proof
namespace Machine

/-! ### Nothing to load (R290, R295) -/

/-- The battery that LOAD leaves: the mirror of RAM and a clock block, nothing pending; the no-op battery where there is
none (R290, R292). -/
def Params.loadedBattery (p : Params) (ram clock : Buf) : Battery :=
  if p.hasBattery then .file { bRam := ram, bClock := clock, clockPresent := false, dirty := false } else .null

theorem Block.powerOn_of_nothing_to_load {p : Params} {f : Option Buf} (h : p.hasBattery = false ∨ f = none) (n : Nat) :
    Block.powerOn p f n = { Block.beforeLoad p n with
      bat := p.loadedBattery (Buf.replicate p.ramSize p.ramFill) (Buf.zeros 44) } := by
  unfold Block.powerOn Params.loadedBattery
  cases hbat : p.hasBattery with
  | false => rfl
  | true =>
    obtain rfl := h.resolve_left (by simp [hbat])
    rfl

/-- Settles O46: the registers are those of `Ctrl.powerOn`, RAM is `Buf.replicate`'s. -/
theorem powerOnWithoutSaveImage : Obligations.PowerOnWithoutSaveImage := by
  rintro s p _ hr hok rfl hnothing
  have hnone : p.hasBattery = false ∨ s.args.store.pick s.file = none := hnothing.imp_right And.right
  refine ⟨Buf.replicate p.ramSize p.ramFill, rfl, fun i hi => ?fill, ?block⟩
  case fill => exact (Buf.get_of_lt hi).trans (congrArg some (Buf.replicate_at hi))
  case block =>
    have hpower : exec .powerOn s = _ := execPowerOn_of_ok hr hok (hnothing.imp_right And.left)
    rw [hpower, Block.powerOn_of_nothing_to_load hnone]
    rfl

/-! ### The clock of a save image (R296) -/

theorem fileClock_of_le {f : Buf} {n : Nat} (h : n + 44 ≤ f.size) : ∃ blk, fileClock f n = some blk := ⟨_, if_pos h⟩

theorem fileClock_of_lt {f : Buf} {n : Nat} (h : f.size < n + 44) : fileClock f n = none := if_neg (Nat.not_le.2 h)

/-- Only an MBC3 takes a clock, and only where the image carries one. -/
theorem Ctrl.loadClock_of_no_clock {c : Ctrl} {blk : Option Buf} (h : c.variant ≠ .mbc3 ∨ blk = none) (hz : Nat) :
    c.loadClock hz blk = c := by
  unfold Ctrl.loadClock
  split
  next => simp at h
  next => rfl

theorem Ctrl.loadedClock_of_no_clock {c : Ctrl} {blk : Option Buf} (h : c.variant ≠ .mbc3 ∨ blk = none) :
    c.loadedClock blk = Buf.zeros 44 := by
  unfold Ctrl.loadedClock
  split
  next => simp at h
  next => rfl

/-! ### A save image (R292 to R294) -/

/-- The clock block that POWER_ON takes from a save image, zeros where it takes none (R33, R296). -/
def Params.clockFrom (p : Params) (f : Buf) (n : Nat) : Buf :=
  (Ctrl.powerOn p.variant n).loadedClock (fileClock f p.ramSize)

/-- RAM with the bytes of a save image over its power-on fill. -/
def Params.ramFrom (p : Params) (f : Buf) : Buf := loadRam f (Buf.replicate p.ramSize p.ramFill)

theorem Block.powerOn_of_image {p : Params} (hbat : p.hasBattery = true) (f : Buf) (n : Nat) :
    Block.powerOn p (some f) n = { Block.beforeLoad p n with
      ram := p.ramFrom f
      ctrl := (Ctrl.powerOn p.variant n).loadClock p.tickHz (fileClock f p.ramSize)
      bat := .file { bRam := p.ramFrom f, bClock := p.clockFrom f n, clockPresent := false, dirty := false } } :=
  if_pos hbat

theorem Params.ramFrom_size (p : Params) (f : Buf) : (p.ramFrom f).size = p.ramSize := loadRam_size f _

theorem Params.ramFrom_get {p : Params} {f : Buf} (hf : f.wf = true) {i : Nat} (hi : i < p.ramSize) :
    (p.ramFrom f).get i = if i < f.size then f.get i else some p.ramFill := by
  rw [Buf.get_of_lt (by rwa [Params.ramFrom_size]), Params.ramFrom, loadRam_at hf hi, Buf.replicate_at hi]
  split
  next h => rw [Buf.get_of_lt h]
  next => rfl

/-- Settles O47: RAM by `Params.ramFrom_get`; the clock by whether there are an MBC3 and 44 bytes more. -/
theorem powerOnLoadsSaveImage : Obligations.PowerOnLoadsSaveImage := by
  intro s p f hr hok hbat hio hf hstore
  have hpick : s.args.store.pick s.file = some f := hstore
  have hpower : exec .powerOn s = _ := execPowerOn_of_ok hr hok (.inr hio)
  rw [hpick, Block.powerOn_of_image hbat] at hpower
  obtain ⟨hclock, -⟩ := Ctrl.loadedClock_spec (Ctrl.powerOn p.variant s.now) p.ramSize hf
  refine ⟨_, _, hpower, rfl, rfl, p.ramFrom_size f, fun i hi => Params.ramFrom_get hf (p.ramFrom_size f ▸ hi), rfl, rfl,
    rfl, rfl, hclock, fun hv hlong => ?clock, fun hnone => ?default⟩
  case clock =>
    obtain ⟨blk, hblk⟩ := fileClock_of_le (n := p.ramSize) hlong
    obtain ⟨hfits, hsize, -, hat⟩ := fileClock_some hf hblk
    have hfrom : p.clockFrom f s.now = blk := by rw [Params.clockFrom, hblk, hv]; rfl
    refine ⟨fun i hi => ?_, ?_⟩
    · dsimp only
      rw [hfrom, Buf.get_of_lt (hsize.symm ▸ hi), hat i hi]
      exact (Buf.get_of_lt (by omega)).symm
    · dsimp only
      rw [hfrom, hblk, hv]
      rfl
  case default =>
    have hnone' : (Ctrl.powerOn p.variant s.now).variant ≠ .mbc3 ∨ fileClock f p.ramSize = none :=
      hnone.imp (by rw [Ctrl.powerOn_variant]; exact id) fileClock_of_lt
    exact ⟨Ctrl.loadedClock_of_no_clock hnone', Ctrl.loadClock_of_no_clock hnone' p.tickHz⟩

/-! ### A save, a flush and a power cycle (R313) -/

/-- RAM after the load of an image that begins with a whole RAM is that RAM. -/
theorem Params.ramFrom_image {p : Params} {m : FileBattery} (hsize : m.bRam.size = p.ramSize) (hram : m.bRam.wf = true)
    (himage : m.image.wf = true) : p.ramFrom m.image = m.bRam := by
  refine Buf.ext_get (loadRam_wf himage (Buf.replicate_wf _ _)) hram ((p.ramFrom_size _).trans hsize.symm) fun i hi => ?_
  rw [Params.ramFrom_size, ← hsize] at hi
  have hlt : i < m.image.size := by rw [FileBattery.image_size]; omega
  have hget := FileBattery.image_get hram hi
  rw [Buf.get_of_lt hlt, Buf.get_of_lt hi] at hget
  rw [Params.ramFrom, loadRam_at himage (hsize ▸ hi), if_pos hlt]
  exact Option.some.inj hget

/-- The RAM-enable write of the block's variant writes a register and ends as every such write does. -/
theorem exec_ramGate_eq {s : State} {b : Block} {i : Instr} {a : Addr} {d : Byte} (hb : s.block = some b)
    (hw : b.wf = true) (hi : i = .m1RamgWr a d ∨ i = .m2RamgWr a d ∨ i = .m3RamgWr a d ∨ i = .m5RamgWr a d)
    (hforce : i.inForce b.ctx = true) :
    ∃ c, exec i s = s.commit (Block.afterEnableWrite { b with ctrl := c } (enableKey d) s.now) := by
  obtain rfl | rfl | rfl | rfl := hi
  all_goals
    have hv := (Block.ctrl_variant hw).trans (eq_of_beq hforce)
    cases hc : b.ctrl <;> rw [hc] at hv <;> cases hv
  · exact ⟨_, State.onMbc1_some hb hc _⟩
  · exact ⟨_, State.onMbc2_some hb hc _⟩
  · exact ⟨_, State.onMbc3_some hb hc _⟩
  · exact ⟨_, State.onMbc5_some hb hc _⟩

theorem BusOutcome.block_wf {i : Instr} {s t : State} {b b' : Block} (ho : BusOutcome i s t) (hb : s.block = some b)
    (hb' : t.block = some b') (hw : b.wf = true) : b'.wf = true := by
  obtain ⟨c, hc, ⟨-, v, rfl⟩ | ⟨-, c', he, rfl⟩⟩ := ho
  · exact Option.some.inj (hb.symm.trans hb') ▸ hw
  · obtain rfl := Option.some.inj (hc.symm.trans hb)
    exact Option.some.inj hb' ▸ he.block_wf hw

/-- A disabling RAM-enable write leaves the mirror equal to RAM and dirty (R299, R300). -/
theorem exec_ramGate_saves {s : State} {b : Block} {i : Instr} {a : Addr} {d : Byte} (hb : s.block = some b)
    (hw : b.wf = true) (hbat : b.params.hasBattery = true) (hd : d.toNat % 16 ≠ 10)
    (hi : i = .m1RamgWr a d ∨ i = .m2RamgWr a d ∨ i = .m3RamgWr a d ∨ i = .m5RamgWr a d)
    (hforce : i.inForce b.ctx = true) :
    ∃ t b' m, exec i s = .next t ∧ t.block = some b' ∧ b'.wf = true ∧ b'.bat = .file m ∧
      m.bRam = b.ram ∧ m.dirty = true := by
  have hbus : i.isBus = true := by obtain rfl | rfl | rfl | rfl := hi <;> rfl
  have hkey : enableKey d = false := by rw [enableKey_eq, decide_eq_false hd]
  obtain ⟨-, -, -, -, -, hfits⟩ := Block.wf_iff.1 hw
  obtain ⟨hfile, -⟩ := Battery.fits_iff.1 hfits
  obtain ⟨c, hexec⟩ := exec_ramGate_eq hb hw hi hforce
  rw [hkey] at hexec
  cases hm : b.bat with
  | null => simp [hm, hbat] at hfile
  | file m =>
    exact ⟨_, _, _, hexec, rfl, (exec_bus hbus hexec).block_wf hb rfl hw,
      Block.saveTrigger_bat_of_file (b := { b with ctrl := c }) hm s.now, FileBattery.save_bRam m _ s.now,
      FileBattery.save_dirty m _ s.now⟩

/-- Settles O51: the save leaves a dirty mirror of RAM, the flush writes it to the store, and POWER_ON loads it. -/
theorem savedRamSurvivesPowerCycle : Obligations.SavedRamSurvivesPowerCycle := by
  intro s b i a d arg arg' hb hw hbat hd hi hforce hio hio' hstore hr hok
  obtain ⟨s1, b1, m, hexec, hb1, hw1, hm, hmirror, hdirty⟩ := exec_ramGate_saves hb hw hbat hd hi hforce
  have hflush := execFlush_ok (s := { s1 with args := arg }) hb1 hm hdirty hio
  have hram : b.params.ramFrom m.image = b.ram := by
    rw [← hmirror]
    exact Params.ramFrom_image ((congrArg Buf.size hmirror).trans (Block.ram_size hw)) (hmirror ▸ Block.ram_wf hw)
      (FileBattery.image_wf (hm ▸ Block.bat_canonical hw1))
  refine ⟨s1, _, _, _, _, hexec, hflush, rfl, execPowerOn_of_ok hr hok (.inr hio'), rfl, ?_⟩
  dsimp only
  rw [hstore, StoreArg.pick, Block.powerOn_of_image hbat]
  exact hram

end Machine
end Sys2Proof
end
